-- ==== Sys2Proof/Word.lean ====
section
/-! DEFINITION. The widths of CRC32E (00_scope.md R7): the CRC word, the octet and the command beat.
Bit 0 is the least significant bit of each of them, and every value is unsigned (R11). -/

namespace Sys2Proof

/-- A 32-bit value: the CRC register, RESULT, STATUS, the argument field, an expected value (R7, CRC_W = STATUS_W = 32). -/
abbrev Word := BitVec 32

/-- One octet: an input datum or an opcode (R7, BYTE_W = OP_W = 8). -/
abbrev Byte := BitVec 8

/-- One command beat (R7, CMD_W = 40; R60). -/
abbrev Beat := BitVec 40

end Sys2Proof
end

