-- ==== Sys2Proof/Machine/Errors.lean ====
section
/-! DEFINITION. The command errors and their codes (60_exceptions.md R140). They are outcomes of a legal machine, never faults:
each one is taken by `Machine.raiseCmdError` and the machine goes on (R143). -/

namespace Sys2Proof.Machine

/-- The three command errors CRC32E-v1 can raise (R140); codes 4 to 15 are never produced. -/
inductive CmdError where
  /-- the opcode is not assigned -/
  | illegalOp
  /-- a must-be-zero argument bit is 1 -/
  | reservedArg
  /-- DATA, END_COMPUTE or END_VERIFY while no job is open -/
  | noJob
deriving DecidableEq, Repr

/-- The code S.errcode and STATUS[11:8] hold for an error; 0 (NONE) means no error since the last clear (R140). -/
def CmdError.code : CmdError → BitVec 4
  | .illegalOp => 1
  | .reservedArg => 2
  | .noJob => 3

end Sys2Proof.Machine
end

