-- ==== Sys2Proof/Syntax.lean ====
section
/-! DEFINITION. The command set CRC32E-v1 (30_encoding.md R61): one constructor for each row of spec/opcode_table.json.
The operands are the two immediate fields of R62; no command names a register or an address (10_state.md R20, 20_memory.md R40). -/

namespace Sys2Proof

/-- A legal command with its operand. -/
inductive Instr where
  /-- START: open a job (41_job_commands.md R111), form Z -/
  | start
  /-- DATA: feed one byte (R112), form B -/
  | data (byte : Byte)
  /-- END_COMPUTE: close the job and give its CRC (R113), form Z -/
  | endCompute
  /-- END_VERIFY: close the job and compare its CRC with an expected value (R114), form W -/
  | endVerify (expected : Word)
deriving DecidableEq, Repr

end Sys2Proof
end

