-- ==== Sys2Proof/Machine/Operands.lean ====
section
/-! DEFINITION. The fields of a beat and the three operand forms (30_encoding.md R60, R62, R63). -/

namespace Sys2Proof.Machine

/-- OP, bits 39:32 of a beat (R60). -/
def opField (beat : Beat) : Byte := beat.extractLsb' 32 8

/-- ARG, bits 31:0 of a beat (R60). -/
def argField (beat : Beat) : Word := beat.extractLsb' 0 32

/-- The operand forms of R62. -/
inductive Form where
  /-- no operand -/
  | z
  /-- a byte in ARG[7:0] -/
  | b
  /-- a word, all of ARG -/
  | w
deriving DecidableEq, Repr

/-- The must-be-zero bits of ARG in each form (R62). -/
def Form.mustBeZero : Form → Word
  | .z => 0xFFFFFFFF
  | .b => 0xFFFFFF00
  | .w => 0x00000000

/-- No must-be-zero bit of ARG is 1 (R62, R66). -/
def Form.reservedClear (f : Form) (arg : Word) : Bool := arg &&& f.mustBeZero == 0

/-- The byte operand of form B, ARG[7:0] taken without change (R63). -/
def byteOperand (arg : Word) : Byte := arg.extractLsb' 0 8

/-- The word operand of form W, ARG[31:0] taken without change: no swap, no reflection (R63; 20_memory.md R45). -/
def wordOperand (arg : Word) : Word := arg

/-- zext_32 of a byte (00_scope.md R12): how a byte enters the register (R63). -/
def zext32 (byte : Byte) : Word := byte.setWidth 32

/-- The opcode of a command (R61). -/
def opcode : Instr → Byte
  | .start => 0x01
  | .data _ => 0x02
  | .endCompute => 0x03
  | .endVerify _ => 0x04

/-- The argument field a command's operand is laid out in (R62, R68). -/
def argument : Instr → Word
  | .start => 0
  | .data byte => zext32 byte
  | .endCompute => 0
  | .endVerify expected => expected

/-- The operand form of an assigned opcode; none for an illegal one (R61, R62, R65). -/
def formOf (op : Byte) : Option Form :=
  if op = 0x01 then some .z
  else if op = 0x02 then some .b
  else if op = 0x03 then some .z
  else if op = 0x04 then some .w
  else none

end Sys2Proof.Machine
end

