-- ==== Sys2Proof/WellFormed.lean ====
section
/-! DEFINITION. What spells a command. Every term of `Instr` does, since its operands have exactly the widths of R62; the checks
that can fail are on a raw 40-bit beat, an assigned opcode (30_encoding.md R65) and clear must-be-zero bits (R66). The range
checks of the assembler's operands (R68) stand beside its syntax, in Machine/Asm.lean. -/

namespace Sys2Proof

/-- Every command with operands of the widths of R62 is well formed: any byte (41_job_commands.md R112) and any expected word (R114). -/
def Instr.wf : Instr → Bool
  | .start => true
  | .data _ => true
  | .endCompute => true
  | .endVerify _ => true

/-- The beat's opcode is one of the four assigned ones (R61). -/
def beatOpAssigned (beat : Beat) : Bool := (Machine.formOf (Machine.opField beat)).isSome

/-- The beat has an assigned opcode whose must-be-zero bits are all 0 (R62, R66). -/
def beatReservedClear (beat : Beat) : Bool :=
  match Machine.formOf (Machine.opField beat) with
  | some f => f.reservedClear (Machine.argField beat)
  | none => false

/-- The beat spells a command (R64): both checks pass. -/
def beatWf (beat : Beat) : Bool := beatOpAssigned beat && beatReservedClear beat

end Sys2Proof
end

