-- ==== Sys2Proof/Decode.lean ====
section
/-! DEFINITION. Decoding, total on any beat and rejecting by the name of the command error (30_encoding.md R64), the encoder
written from the same tables (R60, R61, R68), and the rows of the opcode table. -/

namespace Sys2Proof

open Machine

/-- decode(beat) of R64: a command, or the error ILLEGAL_OP or RESERVED_ARG. The phase check comes after it (R110). -/
def decode (beat : Beat) : Except CmdError Instr :=
  let op := opField beat
  let arg := argField beat
  if op = 0x01 then
    if Form.z.reservedClear arg then .ok .start else .error .reservedArg
  else if op = 0x02 then
    if Form.b.reservedClear arg then .ok (.data (byteOperand arg)) else .error .reservedArg
  else if op = 0x03 then
    if Form.z.reservedClear arg then .ok .endCompute else .error .reservedArg
  else if op = 0x04 then
    .ok (.endVerify (wordOperand arg))
  else .error .illegalOp

/-- A beat from its two fields: OP in bits 39:32, ARG in bits 31:0 (R60). -/
def mkBeat (op : Byte) (arg : Word) : Beat := (op.setWidth 40 <<< 32) ||| arg.setWidth 40

/-- The one beat of a command (R61, R62, R68). -/
def encode (i : Instr) : Beat := mkBeat (opcode i) (argument i)

/-- One row of the opcode table, as spec/opcode_table.json gives it: the fixed bits and the bits that must be zero. -/
structure OpcodeRow where
  /-- the value of the fixed bits -/
  fixed : Beat
  /-- which bits are fixed -/
  mask : Beat
  /-- which bits must be zero -/
  mustBeZero : Beat
deriving DecidableEq, Repr

/-- The four rows of spec/opcode_table.json, in its order (R111 to R114). -/
def opcodeRows : List OpcodeRow :=
  [⟨0x0100000000, 0xFF00000000, 0x00FFFFFFFF⟩,
   ⟨0x0200000000, 0xFF00000000, 0x00FFFFFF00⟩,
   ⟨0x0300000000, 0xFF00000000, 0x00FFFFFFFF⟩,
   ⟨0x0400000000, 0xFF00000000, 0x0000000000⟩]

/-- The row's fixed bits are as the row gives them. -/
def OpcodeRow.selects (r : OpcodeRow) (beat : Beat) : Bool := beat &&& r.mask == r.fixed

/-- The row's must-be-zero bits are all 0. -/
def OpcodeRow.clear (r : OpcodeRow) (beat : Beat) : Bool := beat &&& r.mustBeZero == 0

/-- The beat that an opcode-table word of `nbits` bits stands for; none where its bits do not fit the 40 wires of `cmd`
(10_state.md R38). A beat is ONE word of 40 bits, so the table's bit numbers are the beat's own (R11; log 7). -/
def beatOfTableWord (nbits w : Nat) : Option Beat :=
  if w % 2 ^ nbits < 2 ^ 40 then some (BitVec.ofNat 40 (w % 2 ^ nbits)) else none

/-- The command the decoder reads from an opcode-table word; none where it rejects it. -/
def decodeTableWord (nbits w : Nat) : Option Instr :=
  match beatOfTableWord nbits w with
  | some beat => (decode beat).toOption
  | none => none

end Sys2Proof
end

