-- ==== Sys2Proof/Machine/Crc.lean ====
section
/-! DEFINITION. The CRC-32/ISO-HDLC function, both engines, the comparator and the normal form (40_crc_function.md). Pure functions
of their arguments (R88). -/

namespace Sys2Proof.Machine

/-- reflect_N: bit i of the result is bit N-1-i (00_scope.md R12). -/
def reflect {n : Nat} (v : BitVec n) : BitVec n := v.reverse

/-- One bit step of the reflected engine (R84). -/
def stepBit (c : Word) : Word :=
  if c.getLsbD 0 then (c >>> 1) ^^^ Config.rpoly else c >>> 1

/-- The byte update of the BITWISE engine: eight bit steps (R86). -/
def upd (c : Word) (b : Byte) : Word := stepBit^[8] (c ^^^ zext32 b)

/-- Entry i of the table ROM, by the rule that generates it (R89; 10_state.md R35). -/
def tableEntry (i : Byte) : Word := upd 0 i

/-- The byte update of the TABLE engine (R90). -/
def updT (c : Word) (b : Byte) : Word :=
  (c >>> 8) ^^^ tableEntry ((c ^^^ zext32 b).extractLsb' 0 8)

/-- The byte update a block with the given engine realises (00_scope.md R10). -/
def byteUpdate : Config.Engine → Word → Byte → Word
  | .bitwise => upd
  | .table => updT

/-- The running register over a byte sequence, first byte first (R87). -/
def runCrc (c : Word) : List Byte → Word
  | [] => c
  | b :: bs => runCrc (upd c b) bs

/-- Finalisation (R85). -/
def finalize (c : Word) : Word := c ^^^ Config.xorOut

/-- The source's compute (R92). -/
def crc32 (d : List Byte) : Word := finalize (runCrc Config.init d)

/-- The source's verify: exact equality of all 32 bits (R97). -/
def verify (d : List Byte) (e : Word) : Bool := crc32 d == e

/-- One bit step of the normal-form register, the carry out of bit 31 dropped (R93). -/
def stepBitN (c : Word) : Word :=
  if c.getLsbD 31 then (c <<< 1) ^^^ Config.npoly else c <<< 1

/-- The byte update of the normal form: the reflected byte enters at the top (R93). -/
def updN (c : Word) (b : Byte) : Word := stepBitN^[8] (c ^^^ (zext32 (reflect b) <<< 24))

/-- The normal-form register over a byte sequence (R93). -/
def runCrcN (c : Word) : List Byte → Word
  | [] => c
  | b :: bs => runCrcN (updN c b) bs

/-- crc32_N, the parameter set read literally (R93). -/
def crc32N (d : List Byte) : Word := reflect (runCrcN Config.init d) ^^^ Config.xorOut

/-- The four bytes of a word, least significant first (the order R102 appends a CRC in). -/
def bytesLsbFirst (w : Word) : List Byte :=
  [w.extractLsb' 0 8, w.extractLsb' 8 8, w.extractLsb' 16 8, w.extractLsb' 24 8]

end Sys2Proof.Machine
end

