-- ==== Sys2Proof/Machine/State.lean ====
section
/-! DEFINITION. The state of one CRC32E instance: the record of 10_state.md R22, whole, and beside it the model's own two fields,
whether a reset has been seen (70_reset_and_hazards.md R173) and what the outside world does at the ports (10_state.md R38). -/

namespace Sys2Proof.Machine

/-- The job phase (R23). -/
inductive Phase where
  /-- no job is open -/
  | idle
  /-- a job is open -/
  | active
deriving DecidableEq, Repr

/-- The input pins as a rising edge of `clk` finds them (R38). -/
structure Pins where
  /-- synchronous reset, active high (70_reset_and_hazards.md R170) -/
  rst : Bool
  /-- the host offers a beat -/
  cmdValid : Bool
  /-- the beat on `cmd` -/
  cmd : Beat
deriving DecidableEq, Repr

/-- What the outside world can do to the block: a rising edge of `clk` with the pins it finds, or the platform taking the
power away (60_exceptions.md R153). -/
inductive PortEvent where
  /-- a rising edge of `clk` -/
  | edge (pins : Pins)
  /-- power gating: the state is lost and a reset must follow -/
  | powerOff
deriving DecidableEq, Repr

/-- The state of one instance. The first eight fields are R22's record, field for field. -/
structure State where
  /-- S.phase -/
  phase : Phase
  /-- S.crc, the hidden running register (R25) -/
  crc : Word
  /-- S.result (R24) -/
  result : Word
  /-- S.done (R26) -/
  done : Bool
  /-- S.vkind (R27) -/
  vkind : Bool
  /-- S.match (R28) -/
  matched : Bool
  /-- S.err (R29) -/
  err : Bool
  /-- S.errcode (R30), all four bits of it -/
  errcode : BitVec 4
  /-- MODEL'S OWN (log 4): a reset has been applied since power came up; while false the record above is unspecified (R173) -/
  resetDone : Bool
  /-- MODEL'S OWN (log 1): the port events still to come, the next one first -/
  inputs : List PortEvent
deriving DecidableEq, Repr

/-- The reasons the machine stops with a fault: there are none. No beat in any state is a fault (R180; 93_implementation_defined.md,
"No behaviour of CRC32E is modelled as `fault` or `stuck`"), so nothing raises one; safe, since no behaviour is cut off by it. -/
inductive Fault where
deriving DecidableEq, Repr

/-- The reasons the model refuses to go on. -/
inductive Refusal where
  /-- an instruction with no meaning yet, by its mnemonic; raised by an arm of `exec`, and no arm raises it here. Safe. -/
  | notModelled (mnemonic : String)
  /-- a beat is offered before the first reset, or after the power was taken away and before the reset that must follow: R173 has
  the model refuse such a run rather than pick power-on values. Raised by `offerBeat`. Safe: the machine stops where hardware goes on. -/
  | beforeFirstReset
deriving DecidableEq, Repr

/-- The state right after reset (10_state.md R37; 70_reset_and_hazards.md R171). The model's own fields: a reset has been seen, and
no port event is queued (log 1, log 4). -/
def State.reset : State where
  phase := .idle
  crc := 0xFFFFFFFF
  result := 0x00000000
  done := false
  vkind := false
  matched := false
  err := false
  errcode := 0
  resetDone := true
  inputs := []

end Sys2Proof.Machine
end

