-- ==== Sys2Proof/Machine/Flags.lean ====
section
/-! DEFINITION. The status flags: how they lie in STATUS (10_state.md R31, R32), what sets MATCH (R28) and how the sticky error pair
latches (60_exceptions.md R143, R145). -/

namespace Sys2Proof.Machine

/-- A flag as a word, 1 or 0. -/
def flagWord (b : Bool) : Word := if b then 1 else 0

/-- STATUS.ACTIVE: S.phase == ACTIVE (R31). -/
def Phase.isActive : Phase → Bool
  | .active => true
  | .idle => false

/-- The STATUS output (R31): every bit the layout does not name reads 0 (R32). -/
def State.statusOut (s : State) : Word :=
  (s.errcode.setWidth 32 <<< 8) ||| (flagWord s.err <<< 4) ||| (flagWord s.matched <<< 3)
    ||| (flagWord s.vkind <<< 2) ||| (flagWord s.done <<< 1) ||| flagWord s.phase.isActive

/-- The comparator: 1 on exact equality of all 32 bits (R28; 40_crc_function.md R97). -/
def matchFlag (computed expected : Word) : Bool := computed == expected

/-- The sticky error pair: the first error since a clear sets ERR and records its code, a later one changes neither (R143, R145). -/
def latchError (k : CmdError) (s : State) : State :=
  if s.err = false then { s with err := true, errcode := k.code } else s

/-- Clearing every flag, as START does (41_job_commands.md R111; 60_exceptions.md R146). -/
def clearFlags (s : State) : State :=
  { s with done := false, vkind := false, matched := false, err := false, errcode := 0 }

end Sys2Proof.Machine
end

