-- ==== Sys2Proof/Machine/Ops.lean ====
section
/-! DEFINITION. The operations the meanings share. CRC32E has no memory and no register file (20_memory.md R40, 10_state.md R20), so
these are the updates of the one record S, the taking of a command error, the reset and the outputs. -/

namespace Sys2Proof.Machine

/-- Every outcome of an instruction or of a step. -/
abbrev Result := Host.Outcome State Fault Refusal

/-- Carry an outcome on: a next state goes into `f`, a stop stays. -/
def andThen {σ τ φ ρ : Type} (o : Host.Outcome σ φ ρ) (f : σ → Host.Outcome τ φ ρ) : Host.Outcome τ φ ρ :=
  match o with
  | .next s => f s
  | .fault r => .fault r
  | .refused r => .refused r

/-- Taking a command error (60_exceptions.md R143): latch the error pair and abort an open job, nothing else. No control transfers
and no state is saved, and there is no return from it (R143, R146): the next beat is the next thing that happens. -/
def raiseCmdError (k : CmdError) (s : State) : State :=
  { latchError k s with phase := .idle }

/-- Run `f` in an open job; with none open, take NO_JOB instead of all of `f` (41_job_commands.md R110; 60_exceptions.md R141). -/
def inJob (f : State → State) (s : State) : State :=
  match s.phase with
  | .active => f s
  | .idle => raiseCmdError .noJob s

/-- Open a job: START's writes (41_job_commands.md R111). RESULT is kept. -/
def openJob (s : State) : State :=
  { clearFlags s with phase := .active, crc := Config.init }

/-- Feed one byte with a given engine: only the running register changes (R112). -/
def feedByte (e : Config.Engine) (byte : Byte) (s : State) : State :=
  { s with crc := byteUpdate e s.crc byte }

/-- Close a job and publish its CRC with the given kind and match flags: what END_COMPUTE and END_VERIFY share (R113, R114). -/
def closeJob (vkind matched : Bool) (s : State) : State :=
  { s with result := finalize s.crc, done := true, vkind := vkind, matched := matched, phase := .idle }

/-- A reset: the whole record goes to its reset values (70_reset_and_hazards.md R171). What the outside world will do next is not
the block's to change. -/
def applyReset (s : State) : State := { State.reset with inputs := s.inputs }

/-- The RESULT output (10_state.md R33). -/
def State.resultOut (s : State) : Word := s.result

/-- What a host's read of RESULT gives: nothing it may use before the first reset (R173). It changes no state (10_state.md R34). -/
def State.readResult (s : State) : Option Word := if s.resetDone then some s.resultOut else none

/-- What a host's read of STATUS gives (R173, R34). -/
def State.readStatus (s : State) : Option Word := if s.resetDone then some s.statusOut else none

end Sys2Proof.Machine
end

