-- ==== Sys2Proof/Machine/Job.lean ====
section
/-! DEFINITION. The meanings of the four job commands (41_job_commands.md R111 to R114). Each answers a next state from every state. -/

namespace Sys2Proof.Machine

/-- START (R111): legal in every phase; it discards an open job and clears every flag. -/
def execStart (s : State) : Result := .next (openJob s)

/-- DATA (R112): one byte into the running register; NO_JOB while no job is open. -/
def execData (byte : Byte) (s : State) : Result := .next (inJob (feedByte Config.modelEngine byte) s)

/-- END_COMPUTE (R113): RESULT is the job's CRC; VKIND and MATCH are written 0. NO_JOB while no job is open. -/
def execEndCompute (s : State) : Result := .next (inJob (closeJob false false) s)

/-- END_VERIFY (R114): RESULT is the job's CRC, MATCH its comparison with the expected value; a mismatch is no error (R118).
NO_JOB while no job is open. -/
def execEndVerify (expected : Word) (s : State) : Result :=
  .next (inJob (closeJob true (matchFlag (finalize s.crc) expected)) s)

end Sys2Proof.Machine
end

