-- ==== Sys2Proof/Machine/Dispatch.lean ====
section
/-! DEFINITION. One arm per command (41_job_commands.md R110, "perform k"). -/

namespace Sys2Proof.Machine

/- The command errors that decoding finds are taken before this point, in Machine/Accept.lean. -/
def exec (i : Instr) (s : State) : Host.Outcome State Fault Refusal :=
  match i with
  | .start => Sys2Proof.Machine.execStart s
  | .data byte => Sys2Proof.Machine.execData byte s
  | .endCompute => Sys2Proof.Machine.execEndCompute s
  | .endVerify expected => Sys2Proof.Machine.execEndVerify expected s

end Sys2Proof.Machine
end

