-- ==== Sys2Proof/Machine/Accept.lean ====
section
/-! DEFINITION. From the command port to the instruction: executing one accepted beat (41_job_commands.md R110), what a port event
does (20_memory.md R46; 70_reset_and_hazards.md R170 to R173), runs of beats, and the beats of the two jobs (30_encoding.md R69). -/

namespace Sys2Proof.Machine

/-- Execute one accepted beat (R110): the errors of decoding first, then the command, whose meaning checks the phase (R142). -/
def acceptBeat (beat : Beat) (s : State) : Result :=
  match decode beat with
  | .ok i => exec i s
  | .error k => .next (raiseCmdError k s)

/-- A beat is offered at an edge where the block is ready. Before the first reset the model refuses it (R173). -/
def offerBeat (beat : Beat) (s : State) : Result :=
  if s.resetDone then acceptBeat beat s else .refused .beforeFirstReset

/-- A rising edge of `clk` in a cycle where the block is ready unless `rst` holds it off (R46): a reset wins over a beat, which is then
not accepted (R170, R172); an edge with neither changes nothing (10_state.md R39). -/
def takeEdge (pins : Pins) (s : State) : Result :=
  if pins.rst then .next (applyReset s)
  else if pins.cmdValid then offerBeat pins.cmd s
  else .next s

/-- One event at the ports. When the power goes, the state is lost: what the fields then hold stands for nothing, no read shows it
(`State.readResult`, `State.readStatus`) and no beat is executed until a reset has overwritten it all (60_exceptions.md R153). -/
def takeEvent (e : PortEvent) (s : State) : Result :=
  match e with
  | .edge pins => takeEdge pins s
  | .powerOff => .next { s with resetDone := false }

/-- Execute a list of accepted beats in acceptance order (20_memory.md R46). -/
def runBeats : List Beat → State → Result
  | [], s => .next s
  | b :: bs, s => andThen (acceptBeat b s) (runBeats bs)

/-- The edge at which the host offers a beat. -/
def offerEvent (beat : Beat) : PortEvent := .edge { rst := false, cmdValid := true, cmd := beat }

/-- The beats of a list of commands. -/
def beatsOf (is : List Instr) : List Beat := is.map encode

/-- START, the DATA commands of d in order, END_COMPUTE: the job of the source's compute(d) (30_encoding.md R69). -/
def computeJob (d : List Byte) : List Instr := .start :: (d.map .data ++ [.endCompute])

/-- START, the DATA commands of d in order, END_VERIFY e: the job of the source's verify(d, e) (R69). -/
def verifyJob (d : List Byte) (e : Word) : List Instr := .start :: (d.map .data ++ [.endVerify e])

end Sys2Proof.Machine
end

