-- ==== Sys2Proof/Machine/Step.lean ====
section
/-! DEFINITION. One step of the machine: the next port event (10_state.md R39). CRC32E has no program counter and fetches nothing
(R21): the host's beats arrive in the order of `State.inputs`. -/

namespace Sys2Proof.Machine

/-- One step: the next port event is taken; with none queued the clock runs on, no beat is accepted and nothing changes (R39). -/
def step (s : State) : Host.Outcome State Fault Refusal :=
  match s.inputs with
  | [] => .next s
  | e :: rest => takeEvent e { s with inputs := rest }

/-- The state in which the host offers an opcode-table word as its next beat, ahead of whatever it had to send. A word that does not
fit the 40 wires of `cmd` is no beat, and nothing is offered. -/
def State.withFetchWord (s : State) (nbits w : Nat) : State :=
  match beatOfTableWord nbits w with
  | some beat => { s with inputs := offerEvent beat :: s.inputs }
  | none => s

end Sys2Proof.Machine
end

