-- ==== Sys2Proof/Certificates/Slice0/Polynomial.lean ====
section
/-! DEFINITION. The polynomials of 40_crc_function.md R80 and R93, over the field of two elements: what a claim about the division itself is
stated in. The machine does not use this file. -/

namespace Sys2Proof.Poly

open Polynomial

/-- A bit as a coefficient. -/
def coeffOf (b : Bool) : ZMod 2 := if b then 1 else 0

/-- The generator G(x) of R80. -/
noncomputable def generator : (ZMod 2)[X] :=
  X ^ 32 + X ^ 26 + X ^ 23 + X ^ 22 + X ^ 16 + X ^ 12 + X ^ 11 + X ^ 10 + X ^ 8 + X ^ 7 + X ^ 5 + X ^ 4 + X ^ 2 + X + 1

/-- The message bits in the order of R82: bytes as they arrive, each byte's bit 0 first. -/
def messageBits (d : List Byte) : List Bool := d.flatMap fun b => (List.range 8).map fun i => b.getLsbD i

/-- M(x): the first bit is the coefficient of the highest power (R93). -/
noncomputable def ofBits (bits : List Bool) : (ZMod 2)[X] :=
  bits.foldl (fun p b => X * p + C (coeffOf b)) 0

/-- A word read as a polynomial, bit i the coefficient of x^i (R93). -/
noncomputable def ofWord (w : Word) : (ZMod 2)[X] :=
  ∑ i ∈ Finset.range 32, C (coeffOf (w.getLsbD i)) * X ^ i

end Sys2Proof.Poly
end

