-- ==== Sys2Proof/Machine/Asm.lean ====
section
/-! DEFINITION. The assembler's syntax, one command per line, and the pseudo-instructions (30_encoding.md R68, R69). A line is a list of
characters. Where R68 and R69 leave the lexing open, log 8 says what is taken. -/

namespace Sys2Proof.Machine.Asm

/-- One line's content. Operands are numbers as written, so that an operand out of range can be told (R68). -/
inductive Item where
  | start
  | data (byte : Nat)
  | endCompute
  | endVerify (word : Nat)
  /-- `.BEAT`: a beat as given, with no check -/
  | beat (value : Nat)
  /-- `BYTES` -/
  | bytes (list : List Nat)
  /-- `CRC`: the source's compute -/
  | crc (list : List Nat)
  /-- `VERIFY`: the source's verify -/
  | verify (list : List Nat) (word : Nat)
deriving DecidableEq, Repr

/-- `<byte>` is 0 to 255 (R68). -/
def byteInRange (n : Nat) : Bool := n < 2 ^ 8

/-- `<word>` is 0 to 0xFFFFFFFF (R68). -/
def wordInRange (n : Nat) : Bool := n < 2 ^ 32

/-- `<value>` is 0 to 0xFFFFFFFFFF (R68). -/
def beatInRange (n : Nat) : Bool := n < 2 ^ 40

/-- Every operand of the line is in range (R68). -/
def Item.wf : Item → Bool
  | .start => true
  | .data n => byteInRange n
  | .endCompute => true
  | .endVerify n => wordInRange n
  | .beat n => beatInRange n
  | .bytes l => l.all byteInRange
  | .crc l => l.all byteInRange
  | .verify l n => l.all byteInRange && wordInRange n

/-- The bytes of a list operand. -/
def toBytes (l : List Nat) : List Byte := l.map (BitVec.ofNat 8)

/-- The beats of a line whose operands are in range (R68, R69). -/
def Item.beats : Item → List Beat
  | .start => beatsOf [.start]
  | .data n => beatsOf [.data (BitVec.ofNat 8 n)]
  | .endCompute => beatsOf [.endCompute]
  | .endVerify n => beatsOf [.endVerify (BitVec.ofNat 32 n)]
  | .beat n => [BitVec.ofNat 40 n]
  | .bytes l => beatsOf ((toBytes l).map .data)
  | .crc l => beatsOf (computeJob (toBytes l))
  | .verify l n => beatsOf (verifyJob (toBytes l) (BitVec.ofNat 32 n))

/-- An operand out of range is an assembly error, and no beat is emitted (R68). -/
def Item.assemble (i : Item) : Option (List Beat) := if i.wf then some i.beats else none

/-- What a line is cut into. -/
inductive Token where
  /-- a mnemonic, a directive or a number -/
  | word (cs : List Char)
  /-- a quoted character, by its code -/
  | chr (code : Nat)
  /-- a quoted string, by its codes -/
  | str (codes : List Nat)
  | lbracket
  | rbracket
  | comma
deriving DecidableEq, Repr

/-- Where the lexer stands in a line. Lists of characters and codes are held last first. -/
inductive Mode where
  | gap
  | word (cs : List Char)
  | str (codes : List Nat)
  /-- after a backslash in a string -/
  | escape (codes : List Nat)
  /-- after `\x` in a string, with the digits read so far -/
  | hex (codes : List Nat) (digits : List Nat)
  /-- after the opening quote of a character -/
  | chrOpen
  /-- a character read, its closing quote still to come -/
  | chrClose (code : Nat)
  /-- after `;` -/
  | comment
deriving DecidableEq, Repr

/-- Code points the lexer looks for: tab 9, space 32, `"` 34, `'` 39, `,` 44, `.` 46, `;` 59, `[` 91, `\` 92, `]` 93, `_` 95, `x` 120. -/
def isBlank (n : Nat) : Bool := n == 32 || n == 9

/-- A hexadecimal digit's value, either case. -/
def hexDigit (n : Nat) : Option Nat :=
  if 48 ≤ n && n ≤ 57 then some (n - 48)
  else if 65 ≤ n && n ≤ 70 then some (n - 55)
  else if 97 ≤ n && n ≤ 102 then some (n - 87)
  else none

/-- A decimal digit's value. -/
def decDigit (n : Nat) : Option Nat := if 48 ≤ n && n ≤ 57 then some (n - 48) else none

/-- A character of a mnemonic, a directive or a number. -/
def isWordChar (n : Nat) : Bool :=
  (48 ≤ n && n ≤ 57) || (65 ≤ n && n ≤ 90) || (97 ≤ n && n ≤ 122) || n == 46 || n == 95

/-- A character between tokens: the new mode and the tokens, last first. -/
def lexGap (c : Char) (toks : List Token) : Option (Mode × List Token) :=
  let n := c.toNat
  if isBlank n then some (.gap, toks)
  else if n == 59 then some (.comment, toks)
  else if n == 34 then some (.str [], toks)
  else if n == 39 then some (.chrOpen, toks)
  else if n == 91 then some (.gap, .lbracket :: toks)
  else if n == 93 then some (.gap, .rbracket :: toks)
  else if n == 44 then some (.gap, .comma :: toks)
  else if isWordChar n then some (.word [c], toks)
  else none

/-- One character of a line (R68, R69). -/
def lexChar (c : Char) : Mode × List Token → Option (Mode × List Token)
  | (.gap, toks) => lexGap c toks
  | (.word cs, toks) =>
    if isWordChar c.toNat then some (.word (c :: cs), toks) else lexGap c (.word cs.reverse :: toks)
  | (.str codes, toks) =>
    if c.toNat == 34 then some (.gap, .str codes.reverse :: toks)
    else if c.toNat == 92 then some (.escape codes, toks)
    else if c.toNat < 128 then some (.str (c.toNat :: codes), toks)
    else none
  | (.escape codes, toks) =>
    if c.toNat == 92 || c.toNat == 34 then some (.str (c.toNat :: codes), toks)
    else if c.toNat == 120 then some (.hex codes [], toks)
    else none
  | (.hex codes digits, toks) =>
    match hexDigit c.toNat, digits with
    | some v, [] => some (.hex codes [v], toks)
    | some v, hi :: _ => some (.str ((16 * hi + v) :: codes), toks)
    | none, _ => none
  | (.chrOpen, toks) => if c.toNat < 128 then some (.chrClose c.toNat, toks) else none
  | (.chrClose code, toks) => if c.toNat == 39 then some (.gap, .chr code :: toks) else none
  | (.comment, toks) => some (.comment, toks)

/-- Lex the rest of a line from a mode; an unclosed quote is an error. -/
def lexFrom : List Char → Mode × List Token → Option (List Token)
  | [], (.gap, toks) => some toks.reverse
  | [], (.comment, toks) => some toks.reverse
  | [], (.word cs, toks) => some (Token.word cs.reverse :: toks).reverse
  | [], _ => none
  | c :: cs, m =>
    match lexChar c m with
    | some m' => lexFrom cs m'
    | none => none

/-- The tokens of a line. -/
def lexLine (line : List Char) : Option (List Token) := lexFrom line (.gap, [])

/-- The value of a digit string in a base, most significant digit first. -/
def digitsValue (base : Nat) (digit : Nat → Option Nat) : Nat → List Char → Option Nat
  | acc, [] => some acc
  | acc, c :: cs =>
    match digit c.toNat with
    | some v => digitsValue base digit (base * acc + v) cs
    | none => none

/-- Numbers are decimal or `0x` hexadecimal (R68). -/
def numberOf : List Char → Option Nat
  | [] => none
  | '0' :: 'x' :: c :: cs => digitsValue 16 hexDigit 0 (c :: cs)
  | c :: cs => digitsValue 10 decDigit 0 (c :: cs)

/-- A `<byte>` token: a number, or one quoted character meaning its code (R68). -/
def byteOf : Token → Option Nat
  | .word cs => numberOf cs
  | .chr code => some code
  | .str _ => none
  | .lbracket => none
  | .rbracket => none
  | .comma => none

/-- The elements of a bracket list after its first `[` or `,`, and what follows the `]`. -/
def bracketRest : List Token → Option (List Nat × List Token)
  | b :: .comma :: ts =>
    match byteOf b, bracketRest ts with
    | some n, some (l, rest) => some (n :: l, rest)
    | _, _ => none
  | b :: .rbracket :: ts =>
    match byteOf b with
    | some n => some ([n], ts)
    | none => none
  | _ => none

/-- A `<list>`: a quoted string or a bracket list of `<byte>` (R69), and the tokens after it. -/
def listOf : List Token → Option (List Nat × List Token)
  | .str codes :: ts => some (codes, ts)
  | .lbracket :: .rbracket :: ts => some ([], ts)
  | .lbracket :: ts => bracketRest ts
  | _ => none

/-- A `<list>` that ends the line, given to `f`. -/
def lastList (f : List Nat → Item) (ts : List Token) : Option (List Item) :=
  match listOf ts with
  | some (l, []) => some [f l]
  | _ => none

/-- A number that ends the line, given to `f`. -/
def lastNumber (f : Nat → Item) (ts : List Token) : Option (List Item) :=
  match ts with
  | [.word cs] => (numberOf cs).map fun n => [f n]
  | _ => none

/-- A `<byte>` that ends the line, given to `f`. -/
def lastByte (f : Nat → Item) (ts : List Token) : Option (List Item) :=
  match ts with
  | [t] => (byteOf t).map fun n => [f n]
  | _ => none

/-- The operands of `VERIFY`: a list, a comma and a word (R69). -/
def verifyOperands (ts : List Token) : Option (List Item) :=
  match listOf ts with
  | some (l, .comma :: ts') => lastNumber (Item.verify l) ts'
  | _ => none

/-- The content of a line's tokens: nothing for a line with none (R68, R69). -/
def parseTokens : List Token → Option (List Item)
  | [] => some []
  | .word name :: ts =>
    if name = ['S', 'T', 'A', 'R', 'T'] then (if ts = [] then some [.start] else none)
    else if name = ['E', 'N', 'D', '_', 'C', 'O', 'M', 'P', 'U', 'T', 'E'] then (if ts = [] then some [.endCompute] else none)
    else if name = ['D', 'A', 'T', 'A'] then lastByte Item.data ts
    else if name = ['E', 'N', 'D', '_', 'V', 'E', 'R', 'I', 'F', 'Y'] then lastNumber Item.endVerify ts
    else if name = ['.', 'B', 'E', 'A', 'T'] then lastNumber Item.beat ts
    else if name = ['B', 'Y', 'T', 'E', 'S'] then lastList Item.bytes ts
    else if name = ['C', 'R', 'C'] then lastList Item.crc ts
    else if name = ['V', 'E', 'R', 'I', 'F', 'Y'] then verifyOperands ts
    else none
  | _ => none

/-- The beats of a line's items. A line has one item at most (`parseTokens`), so an error leaves the line without a beat (R68). -/
def assembleItems : List Item → Option (List Beat)
  | [] => some []
  | i :: is =>
    match i.assemble, assembleItems is with
    | some bs, some rest => some (bs ++ rest)
    | _, _ => none

/-- The beats of one line; none is an assembly error (R68). -/
def assembleLine (line : List Char) : Option (List Beat) :=
  match lexLine line with
  | some toks =>
    match parseTokens toks with
    | some items => assembleItems items
    | none => none
  | none => none

/-- The beats of a program, line by line. R68 speaks of one line and does not say what an assembly error in it does to the beats of the
other lines. DESIGN CHOICE, unsafe (log 8): an error in any line withholds the beats of the whole program. -/
def assemble : List (List Char) → Option (List Beat)
  | [] => some []
  | l :: ls =>
    match assembleLine l, assemble ls with
    | some bs, some rest => some (bs ++ rest)
    | _, _ => none

end Sys2Proof.Machine.Asm
end

