-- ==== Sys2Proof/Machine/Platform.lean ====
section
/-! DEFINITION. A platform of several CRC32E instances (60_exceptions.md R151; 20_memory.md R52): each has a state of its own, and
they share nothing but constants. -/

namespace Sys2Proof.Machine

/-- The instances of a platform. -/
abbrev Platform := List State

/-- Instance k takes a port event; a number that names no instance changes nothing. -/
def Platform.deliver (k : Nat) (e : PortEvent) (ms : Platform) : Host.Outcome Platform Fault Refusal :=
  match ms[k]? with
  | some s => andThen (takeEvent e s) fun s' => .next (ms.set k s')
  | none => .next ms

end Sys2Proof.Machine
end

