-- ==== Sys2Proof/Machine/Port.lean ====
section
/-! DEFINITION. The clocked command port: the ready/valid handshake, `cmd_ready` and the busy window (20_memory.md R46 to R48;
70_reset_and_hazards.md R170 to R172, R176, R179). `step` is the transaction level of 10_state.md R39; this file refines it to single
rising edges of `clk`. ACCEPT_LATENCY is an argument, and no value of it is assumed (00_scope.md R8; 93_implementation_defined.md I2). -/

namespace Sys2Proof.Machine

/-- The block with its handshake. -/
structure Clocked where
  /-- the state with the whole effect of every accepted beat -/
  arch : State
  /-- the state RESULT and STATUS show -/
  shown : State
  /-- how many more cycles `cmd_ready` stays 0 after this edge -/
  wait : Nat
deriving DecidableEq, Repr

/-- What an implementation is free to choose at an edge (R8, R47); the model bounds it and assumes nothing else (log 6). -/
structure Pace where
  /-- how long the block is busy from here -/
  busy : Nat
  /-- whether it shows a finished beat's writes before the busy window ends -/
  early : Bool
deriving DecidableEq, Repr

/-- The `cmd_ready` output in a cycle with the given `rst` (R46, R47, R170). -/
def Clocked.cmdReady (rst : Bool) (t : Clocked) : Bool := t.wait == 0 && !rst

/-- The `result` and `status` outputs (10_state.md R38). -/
def Clocked.resultPin (t : Clocked) : Word := t.shown.resultOut

/-- The `status` output (10_state.md R38). -/
def Clocked.statusPin (t : Clocked) : Word := t.shown.statusOut

/-- The clocked state the model starts from: the reset state, shown, and ready at once. DESIGN CHOICE, unsafe (log 6): R171 lets a block be
busy for up to ACCEPT_LATENCY cycles after a reset, as `Clocked.resetEdge` does. -/
def Clocked.reset : Clocked := { arch := State.reset, shown := State.reset, wait := 0 }

/-- A reset edge: the reset state is shown from this edge on, and once `rst` is back at 0 the block is ready within ACCEPT_LATENCY
cycles (R171). -/
def Clocked.resetEdge (latency : Nat) (pace : Pace) (t : Clocked) : Clocked :=
  { arch := applyReset t.arch, shown := applyReset t.arch, wait := min pace.busy latency }

/-- A beat has been accepted and its full effect is `s`. The next ready cycle is at most `latency` cycles away; with no busy
window the writes show at once, else at the latest when the window ends, all together (R47, R48). -/
def Clocked.afterBeat (latency : Nat) (pace : Pace) (t : Clocked) (s : State) : Clocked :=
  { arch := s
    shown := if min pace.busy (latency - 1) = 0 || pace.early then s else t.shown
    wait := min pace.busy (latency - 1) }

/-- A busy cycle: no beat is accepted (R46). -/
def Clocked.busyEdge (pace : Pace) (t : Clocked) : Clocked :=
  { t with shown := if t.wait ≤ 1 || pace.early then t.arch else t.shown, wait := t.wait - 1 }

/-- One rising edge of `clk`. -/
def Clocked.edge (latency : Nat) (pace : Pace) (pins : Pins) (t : Clocked) : Host.Outcome Clocked Fault Refusal :=
  if pins.rst then .next (t.resetEdge latency pace)
  else if t.wait = 0 then
    if pins.cmdValid then
      andThen (offerBeat pins.cmd t.arch) fun s => .next (t.afterBeat latency pace s)
    else .next t
  else .next (t.busyEdge pace)

/-- A host that offers the first of its beats at every edge and holds it until it is accepted (R46), one edge for each pace. It answers
the beats still to send and the block. -/
def Clocked.drive (latency : Nat) : List Pace → List Beat → Clocked → Host.Outcome (List Beat × Clocked) Fault Refusal
  | [], bs, t => .next (bs, t)
  | p :: ps, [], t =>
    andThen (t.edge latency p { rst := false, cmdValid := false, cmd := 0 }) fun t' => Clocked.drive latency ps [] t'
  | p :: ps, b :: bs, t =>
    andThen (t.edge latency p { rst := false, cmdValid := true, cmd := b }) fun t' =>
      Clocked.drive latency ps (if t.cmdReady false then bs else b :: bs) t'

end Sys2Proof.Machine
end

