-- ==== Sys2Proof/Safety.lean ====
section
/-! DEFINITION. What counts as a safe run, in the terms claims use: the invariants of 10_state.md R36, when a host may trust an output
(70_reset_and_hazards.md R175, R177), and the source's own view of the block, a recorder of whole buffers (41_job_commands.md R115 to
R118; 90_conflicts.md C2). -/

namespace Sys2Proof.Machine

/-- The six invariants of R36, in its order. -/
def State.Inv (s : State) : Prop :=
  (s.phase = .active → s.done = false ∧ s.vkind = false ∧ s.matched = false ∧ s.err = false ∧ s.errcode = 0)
  ∧ (s.matched = true → s.vkind = true ∧ s.done = true)
  ∧ (s.vkind = true → s.done = true)
  ∧ (s.err = false ↔ s.errcode = 0)
  ∧ (s.err = true → s.errcode = 1 ∨ s.errcode = 2 ∨ s.errcode = 3)
  ∧ (s.done = true → s.phase = .idle)

/-- What a host may read is as R36 says: nothing is said of a state that no reset has reached (R173). -/
def State.Safe (s : State) : Prop := s.resetDone = true → s.Inv

/-- RESULT is a job's result (R175). -/
def State.resultValid (s : State) : Bool := s.done

/-- MATCH is a verification result (R175). -/
def State.matchValid (s : State) : Bool := s.done && s.vkind

/-- STATUS shows DONE = 1 with ACTIVE = 0 and ERR = 0: the host may trust RESULT and MATCH (R177). -/
def State.trusted (s : State) : Bool := s.done && !s.err && s.phase == .idle

/-- The clocked block keeps its promises: it is busy for at most ACCEPT_LATENCY more cycles, and when it is not busy its outputs
show every accepted beat (20_memory.md R47; 70_reset_and_hazards.md R171, R179). -/
def Clocked.Inv (latency : Nat) (t : Clocked) : Prop := t.wait ≤ latency ∧ (t.wait = 0 → t.shown = t.arch)

/-- How a completed job ended: its bytes, and the expected value if it was a verification. -/
structure Finished where
  bytes : List Byte
  expected : Option Word
deriving DecidableEq, Repr

/-- The block as the source sees it: no running register, only whole buffers and the two pure functions. -/
structure Recorder where
  /-- the bytes of the open job, in arrival order (20_memory.md R41) -/
  job : Option (List Byte)
  /-- the job completed since the last START -/
  finished : Option Finished
  /-- the first command error since the last START (60_exceptions.md R145) -/
  error : Option CmdError
  /-- the bytes of the job RESULT last came from, kept when DONE is cleared (R24) -/
  published : Option (List Byte)
deriving DecidableEq, Repr

/-- The recorder after reset. -/
def Recorder.init : Recorder := { job := none, finished := none, error := none, published := none }

/-- A command error: the first one is kept, and the open job is lost (60_exceptions.md R143, R145). -/
def Recorder.fail (k : CmdError) (r : Recorder) : Recorder :=
  { r with job := none, error := r.error.or (some k) }

/-- A command at the recorder. -/
def Recorder.perform (i : Instr) (r : Recorder) : Recorder :=
  match i, r.job with
  | .start, _ => { r with job := some [], finished := none, error := none }
  | .data b, some d => { r with job := some (d ++ [b]) }
  | .endCompute, some d => { r with job := none, finished := some ⟨d, none⟩, published := some d }
  | .endVerify e, some d => { r with job := none, finished := some ⟨d, some e⟩, published := some d }
  | .data _, none => r.fail .noJob
  | .endCompute, none => r.fail .noJob
  | .endVerify _, none => r.fail .noJob

/-- A beat at the recorder. -/
def Recorder.accept (beat : Beat) (r : Recorder) : Recorder :=
  match decode beat with
  | .ok i => r.perform i
  | .error k => r.fail k

/-- The recorder a state stands for: the running register is run(INIT, d) of the open job's bytes, RESULT the source's compute of the
last completed job's bytes, MATCH the source's verify, and the error pair the first error. -/
def Recorder.Matches (r : Recorder) (s : State) : Prop :=
  s.phase.isActive = r.job.isSome
  ∧ (∀ d, r.job = some d → s.crc = runCrc Config.init d)
  ∧ s.done = r.finished.isSome
  ∧ (∀ f, r.finished = some f → r.published = some f.bytes ∧ s.vkind = f.expected.isSome
      ∧ s.matched = (match f.expected with | some e => verify f.bytes e | none => false))
  ∧ (r.finished = none → s.vkind = false ∧ s.matched = false)
  ∧ s.result = (match r.published with | some d => crc32 d | none => 0)
  ∧ s.err = r.error.isSome
  ∧ s.errcode = (match r.error with | some k => k.code | none => 0)

end Sys2Proof.Machine
end

