-- ==== Sys2Proof/Certificates/Slice0/Obligations.lean ====
section
/-! DEFINITION. The statements for the provers. Each docstring says which rule of spec/ it formalises. -/

open Sys2Proof Sys2Proof.Machine

/-! ### The CRC function (40_crc_function.md) -/

/-- R81: RPOLY = reflect_32(NPOLY) = 0xEDB88320, and in it bit i holds the coefficient of x^(31-i). R83: INIT = 0xFFFFFFFF is its own
reflection. -/
def Obligations.ReflectedConstantsAreReversed : Prop :=
  reflect Config.npoly = Config.rpoly ∧ Config.npoly = 0x04C11DB7#32 ∧ Config.rpoly = 0xEDB88320#32
  ∧ (∀ i, i < 32 → Config.rpoly.getLsbD i = Config.npoly.getLsbD (31 - i))
  ∧ Config.init = 0xFFFFFFFF#32 ∧ reflect Config.init = Config.init

/-- R84: one bit step, by the bit that leaves the register; a 0 enters the shift at bit 31. -/
def Obligations.BitStepShiftsRight : Prop :=
  ∀ c : Word,
    (c.getLsbD 0 = true → stepBit c = (c >>> 1) ^^^ 0xEDB88320#32)
    ∧ (c.getLsbD 0 = false → stepBit c = c >>> 1)
    ∧ (c >>> 1).getLsbD 31 = false

/-- R86: the byte enters by an exclusive OR into bits 7:0, then eight bit steps; and the rule's worked value. -/
def Obligations.ByteUpdateIsEightBitSteps : Prop :=
  (∀ (c : Word) (b : Byte),
    upd c b = stepBit (stepBit (stepBit (stepBit (stepBit (stepBit (stepBit (stepBit (c ^^^ b.setWidth 32)))))))))
  ∧ upd 0xFFFFFFFF 0x31 = 0x7C231048#32

/-- R89: the 256 listed entries of the table are those the rule generates. -/
def Obligations.TableRomHoldsGeneratedEntries : Prop :=
  Config.tableRom.length = Config.tableN
  ∧ ∀ i : Byte, Config.tableRom[i.toNat]? = some (upd 0x00000000 i)

/-- R91: the TABLE engine's update is the BITWISE engine's, so both engines compute the same register over every sequence, from every
register, and the same RESULT and MATCH for every job. -/
def Obligations.TableEngineEqualsBitwiseEngine : Prop :=
  (∀ (c : Word) (b : Byte), updT c b = upd c b)
  ∧ (∀ (e : Config.Engine) (c : Word) (d : List Byte), d.foldl (byteUpdate e) c = runCrc c d)
  ∧ ∀ (e : Config.Engine) (d : List Byte) (x : Word),
      finalize (d.foldl (byteUpdate e) Config.init) = crc32 d
      ∧ matchFlag (finalize (d.foldl (byteUpdate e) Config.init)) x = verify d x

/-- R93, its first identity: the parameter set read literally, MSB first, gives the same function, and at every byte boundary the
reflected register is the reflection of the normal one. -/
def Obligations.NormalFormEqualsReflectedForm : Prop :=
  ∀ d : List Byte, crc32N d = crc32 d ∧ runCrc Config.init d = reflect (runCrcN Config.init d)

/-- R93, its closed form: with R the remainder of x^32 M(x) + x^(8n) (x^31 + ... + 1) by G(x), crc32(d) = reflect_32(R) ^ 0xFFFFFFFF. It
is said here as R being the word reflect_32(crc32(d) ^ 0xFFFFFFFF), which is the same: the model's reading of the form, DEDUCED (log 9). -/
def Obligations.CrcIsPolynomialRemainder : Prop :=
  ∀ d : List Byte,
    (Polynomial.X ^ 32 * Poly.ofBits (Poly.messageBits d)
      + Polynomial.X ^ (8 * d.length) * ∑ i ∈ Finset.range 32, Polynomial.X ^ i) %ₘ Poly.generator
    = Poly.ofWord (reflect (crc32 d ^^^ 0xFFFFFFFF))

/-- R94 and R95: the empty input gives 0, the all-zero inputs the rule names do not, and the check value. -/
def Obligations.EmptyInputAndCheckValue : Prop :=
  crc32 [] = 0x00000000#32 ∧ crc32 [0x00] = 0xD202EF8D#32 ∧ crc32 [0x00, 0x00, 0x00, 0x00] = 0x2144DF1C#32
  ∧ crc32 [0x31, 0x32, 0x33, 0x34, 0x35, 0x36, 0x37, 0x38, 0x39] = 0xCBF43926#32

/-- R99: verify accepts exactly the CRC. -/
def Obligations.VerifyAcceptsExactlyTheCrc : Prop :=
  ∀ (d : List Byte) (e : Word), verify d (crc32 d) = true ∧ (e ≠ crc32 d → verify d e = false)

/-- R98: an expected value off by one, reduced mod 2^32, never matches; from 0xFFFFFFFF it is 0. -/
def Obligations.OffByOneNeverMatches : Prop :=
  ∀ d : List Byte,
    verify d (BitVec.ofNat 32 (((crc32 d).toNat + 1) % 2 ^ 32)) = false
    ∧ (crc32 d = 0xFFFFFFFF#32 → BitVec.ofNat 32 (((crc32 d).toNat + 1) % 2 ^ 32) = 0x00000000#32)

/-- R100: flipping exactly one bit of one byte changes the CRC. -/
def Obligations.SingleBitFlipChangesCrc : Prop :=
  ∀ (d : List Byte) (k : Nat) (h : k < d.length) (j : Nat), j < 8 →
    crc32 (d.set k (d[k] ^^^ (1#8 <<< j))) ≠ crc32 d

/-- R101: the function is affine. -/
def Obligations.CrcIsAffine : Prop :=
  ∀ a b : List Byte, a.length = b.length →
    crc32 (List.zipWith (fun x y => x ^^^ y) a b) = crc32 a ^^^ crc32 b ^^^ crc32 (List.replicate a.length 0x00)

/-- R102: the residue of a sequence with its CRC appended, least significant byte first. -/
def Obligations.AppendedCrcLeavesResidue : Prop :=
  ∀ d : List Byte,
    crc32 (d ++ bytesLsbFirst (crc32 d)) = 0x2144DF1C#32
    ∧ runCrc Config.init (d ++ bytesLsbFirst (crc32 d)) = 0xDEBB20E3#32

/-! ### Decoding and encoding (30_encoding.md) -/

/-- R70: the worked encodings, each word written out from the encoding, decode to their commands and are their encodings; and three words
that spell no command (R61, R66). -/
def Obligations.WorkedWordsDecode : Prop :=
  decode 0x0100000000 = .ok .start
  ∧ decode 0x0200000031 = .ok (.data 0x31)
  ∧ decode 0x02000000FF = .ok (.data 0xFF)
  ∧ decode 0x0300000000 = .ok .endCompute
  ∧ decode 0x04CBF43926 = .ok (.endVerify 0xCBF43926)
  ∧ beatsOf (computeJob []) = [0x0100000000, 0x0300000000]
  ∧ beatsOf (computeJob [0x31, 0x32, 0x33, 0x34, 0x35, 0x36, 0x37, 0x38, 0x39]) =
      [0x0100000000, 0x0200000031, 0x0200000032, 0x0200000033, 0x0200000034, 0x0200000035, 0x0200000036, 0x0200000037,
       0x0200000038, 0x0200000039, 0x0300000000]
  ∧ decode 0x0000000000 = .error .illegalOp
  ∧ decode 0x0500000000 = .error .illegalOp
  ∧ decode 0x0200000131 = .error .reservedArg

/-- Decode and encode agree on every command with every operand, and the opcode-table reading of the word does too. -/
def Obligations.DecodeOfEncode : Prop :=
  ∀ i : Instr, i.wf = true →
    decode (encode i) = .ok i ∧ decodeTableWord 40 (encode i).toNat = some i

/-- The other direction: a beat that decodes to a command is that command's one encoding, so no bit of a beat is dropped. -/
def Obligations.EncodeOfDecode : Prop :=
  ∀ (beat : Beat) (i : Instr), decode beat = .ok i → encode i = beat

/-- R141, its first two clauses, in the beat's own bits: when decoding answers each error, and (R64) when a command. -/
def Obligations.DecodingErrorsExactly : Prop :=
  ∀ beat : Beat,
    (decode beat = .error .illegalOp ↔
      beat.extractLsb 39 32 ≠ 1#8 ∧ beat.extractLsb 39 32 ≠ 2#8 ∧ beat.extractLsb 39 32 ≠ 3#8 ∧ beat.extractLsb 39 32 ≠ 4#8)
    ∧ (decode beat = .error .reservedArg ↔
      ((beat.extractLsb 39 32 = 1#8 ∨ beat.extractLsb 39 32 = 3#8) ∧ beat.extractLsb 31 0 ≠ 0#32)
      ∨ (beat.extractLsb 39 32 = 2#8 ∧ beat.extractLsb 31 8 ≠ 0#24))
    ∧ decode beat ≠ .error .noJob
    ∧ ((∃ i, decode beat = .ok i) ↔ beatWf beat = true)

/-- The rows of spec/opcode_table.json and the decoder: no beat is selected by two rows, and a beat decodes to a command exactly when a
row selects it with its must-be-zero bits clear. -/
def Obligations.DecodingFollowsOpcodeTable : Prop :=
  (∀ beat : Beat, (opcodeRows.filter fun r => r.selects beat).length ≤ 1)
  ∧ ∀ beat : Beat, (∃ i, decode beat = .ok i) ↔ ∃ r ∈ opcodeRows, r.selects beat = true ∧ r.clear beat = true

/-! ### The outputs and the reset (10_state.md, 70_reset_and_hazards.md) -/

/-- R31 and R32: every bit of STATUS, field by field. -/
def Obligations.StatusLayout : Prop :=
  ∀ s : State,
    s.statusOut.getLsbD 0 = s.phase.isActive ∧ s.statusOut.getLsbD 1 = s.done ∧ s.statusOut.getLsbD 2 = s.vkind
    ∧ s.statusOut.getLsbD 3 = s.matched ∧ s.statusOut.getLsbD 4 = s.err
    ∧ s.statusOut.extractLsb 11 8 = s.errcode
    ∧ s.statusOut.extractLsb 7 5 = 0#3 ∧ s.statusOut.extractLsb 31 12 = 0#20

/-- R33: RESULT bit i is S.result[i]. -/
def Obligations.ResultOutputIsResultRegister : Prop :=
  ∀ (s : State) (i : Nat), s.resultOut.getLsbD i = s.result.getLsbD i

/-- R37: what a reset edge leaves, from every state, before the first reset too, and what State.reset holds. -/
def Obligations.ResetEdgeGivesResetState : Prop :=
  (∀ (pins : Pins) (s : State), pins.rst = true → ∃ t, takeEdge pins s = .next t
    ∧ t.phase = .idle ∧ t.crc = 0xFFFFFFFF#32 ∧ t.result = 0x00000000#32 ∧ t.done = false ∧ t.vkind = false
    ∧ t.matched = false ∧ t.err = false ∧ t.errcode = 0#4 ∧ t.statusOut = 0x00000000#32 ∧ t.resultOut = 0x00000000#32)
  ∧ State.reset.phase = .idle ∧ State.reset.crc = 0xFFFFFFFF#32 ∧ State.reset.result = 0x00000000#32
  ∧ State.reset.done = false ∧ State.reset.vkind = false ∧ State.reset.matched = false ∧ State.reset.err = false
  ∧ State.reset.errcode = 0#4 ∧ State.reset.statusOut = 0x00000000#32 ∧ State.reset.resultOut = 0x00000000#32

/-- R36 at reset. -/
def Obligations.ResetStateMeetsInvariants : Prop := State.reset.Inv ∧ State.reset.Safe

/-- R36: every step keeps the six invariants, whatever the ports do, once a reset has been seen (R173). -/
def Obligations.StepKeepsInvariants : Prop :=
  ∀ s t : State, s.Safe → step s = .next t → t.Safe

/-- The model's treatment of R173 and of 60_exceptions.md R153 (log 4): before the first reset, and after the power was taken away, a beat is
refused and no output is given to a read; a reset edge ends that. -/
def Obligations.BeatsBeforeResetAreRefused : Prop :=
  ∀ (s : State) (beat : Beat),
    (s.resetDone = false → takeEvent (offerEvent beat) s = .refused .beforeFirstReset
      ∧ s.readResult = none ∧ s.readStatus = none)
    ∧ (∃ t, takeEvent .powerOff s = .next t ∧ t.resetDone = false)
    ∧ ∀ pins : Pins, pins.rst = true → ∃ t, takeEvent (.edge pins) s = .next t ∧ t.resetDone = true
        ∧ t.readResult = some 0x00000000#32 ∧ t.readStatus = some 0x00000000#32

/-! ### One step (41_job_commands.md R110) -/

/-- A step runs the decoded command: with a reset seen and a beat offered next, the step is exec of the decoded command, or the taking of
the error decoding found, at the state with that event consumed; and `withFetchWord` places exactly that. -/
def Obligations.StepRunsTheDecodedCommand : Prop :=
  (∀ (s : State) (beat : Beat) (rest : List PortEvent) (i : Instr),
    s.resetDone = true → s.inputs = offerEvent beat :: rest → decode beat = .ok i →
      step s = exec i { s with inputs := rest })
  ∧ (∀ (s : State) (beat : Beat) (rest : List PortEvent) (k : CmdError),
    s.resetDone = true → s.inputs = offerEvent beat :: rest → decode beat = .error k →
      step s = .next (raiseCmdError k { s with inputs := rest }))
  ∧ ∀ (s : State) (i : Instr), s.resetDone = true → step (s.withFetchWord 40 (encode i).toNat) = exec i s

/-- The first clause is R39's last sentence: an edge with neither a reset nor a beat changes nothing. The second, that a step with no event
queued changes nothing, is the convention of the model's own queue, DESIGN CHOICE (log 1), and no rule's. -/
def Obligations.IdleEdgesChangeNothing : Prop :=
  ∀ (s : State) (cmd : Beat) (rest : List PortEvent),
    (s.inputs = .edge { rst := false, cmdValid := false, cmd := cmd } :: rest → step s = .next { s with inputs := rest })
    ∧ (s.inputs = [] → step s = .next s)

/-- A queue of offered beats is executed in order, one step each: running the machine on it is running the beats. -/
def Obligations.StepsRunOfferedBeatsInOrder : Prop :=
  ∀ (bs : List Beat) (s : State) (rest : List PortEvent), s.resetDone = true → s.inputs = bs.map offerEvent ++ rest →
    Host.Core.run core bs.length s = runBeats bs { s with inputs := rest }

/-! ### The four commands (41_job_commands.md) -/

/-- R111: START, from every state. It completes in every phase; STATUS is then 0x00000001 and RESULT is kept; a START right after it changes
nothing more; a set must-be-zero bit makes the beat RESERVED_ARG instead, and an argument of 0 never does. -/
def Obligations.StartOpensAJob : Prop :=
  ∀ s : State,
    exec .start s = .next
      { s with phase := .active, crc := 0xFFFFFFFF, done := false, vkind := false, matched := false, err := false, errcode := 0 }
    ∧ (∀ t, exec .start s = .next t → t.statusOut = 0x00000001#32 ∧ t.resultOut = s.resultOut ∧ exec .start t = .next t)
    ∧ acceptBeat (mkBeat 0x01 0) s = exec .start s
    ∧ ∀ arg : Word, arg ≠ 0 → acceptBeat (mkBeat 0x01 arg) s = .next (raiseCmdError .reservedArg s)

/-- R112: DATA in an open job, under either engine, for every byte: only the running register changes, so STATUS and RESULT do not. Its beat
is RESERVED_ARG when ARG[31:8] is not 0, in either phase, and else NO_JOB when no job is open. With the rule's two values. -/
def Obligations.DataFeedsOneByte : Prop :=
  (∀ (s : State) (b : Byte) (e : Config.Engine), s.phase = .active →
    exec (.data b) s = .next { s with crc := upd s.crc b }
    ∧ upd s.crc b = byteUpdate e s.crc b
    ∧ ({ s with crc := upd s.crc b } : State).statusOut = s.statusOut
    ∧ ({ s with crc := upd s.crc b } : State).resultOut = s.resultOut
    ∧ acceptBeat (mkBeat 0x02 (b.setWidth 32)) s = exec (.data b) s)
  ∧ (∀ (s : State) (b : Byte), s.phase = .idle →
    acceptBeat (mkBeat 0x02 (b.setWidth 32)) s = .next (raiseCmdError .noJob s))
  ∧ (∀ (s : State) (arg : Word), arg.extractLsb 31 8 ≠ 0#24 →
    acceptBeat (mkBeat 0x02 arg) s = .next (raiseCmdError .reservedArg s))
  ∧ upd 0xFFFFFFFF 0x00 = 0x2DFD1072#32 ∧ upd 0xFFFFFFFF 0x31 = 0x7C231048#32

/-- R113: END_COMPUTE in an open job, with the STATUS it leaves where the open job has no error flag set (as every job the block can reach
has, R36); RESERVED_ARG when ARG is not 0, and else NO_JOB when no job is open. -/
def Obligations.EndComputePublishesTheCrc : Prop :=
  (∀ s : State, s.phase = .active →
    exec .endCompute s = .next
      { s with result := s.crc ^^^ 0xFFFFFFFF, done := true, vkind := false, matched := false, phase := .idle }
    ∧ acceptBeat (mkBeat 0x03 0) s = exec .endCompute s
    ∧ (s.err = false → s.errcode = 0 → ∀ t, exec .endCompute s = .next t → t.statusOut = 0x00000002#32))
  ∧ (∀ s : State, s.phase = .idle → acceptBeat (mkBeat 0x03 0) s = .next (raiseCmdError .noJob s))
  ∧ ∀ (s : State) (arg : Word), arg ≠ 0 → acceptBeat (mkBeat 0x03 arg) s = .next (raiseCmdError .reservedArg s)

/-- R114: END_VERIFY in an open job, on a match and on a mismatch, which leaves ERR and ERRCODE alone (R118); every argument is an expected
value, so the beat is never RESERVED_ARG, and it is NO_JOB when no job is open. -/
def Obligations.EndVerifyPublishesAndCompares : Prop :=
  ∀ (s : State) (e : Word),
    acceptBeat (mkBeat 0x04 e) s = exec (.endVerify e) s
    ∧ (s.phase = .active → s.crc ^^^ 0xFFFFFFFF = e → exec (.endVerify e) s = .next
      { s with result := s.crc ^^^ 0xFFFFFFFF, done := true, vkind := true, matched := true, phase := .idle })
    ∧ (s.phase = .active → s.crc ^^^ 0xFFFFFFFF ≠ e → exec (.endVerify e) s = .next
      { s with result := s.crc ^^^ 0xFFFFFFFF, done := true, vkind := true, matched := false, phase := .idle })
    ∧ (s.phase = .idle → exec (.endVerify e) s = .next (raiseCmdError .noJob s))

/-- The frame of every command when exec gives a next state: what no command touches, what only END_COMPUTE and END_VERIFY may change, what
only START and DATA may change, what only START clears, and that a command turned away with NO_JOB changes the error pair alone.
CRC32E has no memory and no other register (R20, R40). -/
def Obligations.CommandFrames : Prop :=
  ∀ (i : Instr) (s t : State), exec i s = .next t →
    t.resetDone = s.resetDone ∧ t.inputs = s.inputs
    ∧ (i = .start → t.result = s.result)
    ∧ ((∃ b, i = .data b) → s.phase = .active →
        t.phase = s.phase ∧ t.result = s.result ∧ t.done = s.done ∧ t.vkind = s.vkind ∧ t.matched = s.matched
        ∧ t.err = s.err ∧ t.errcode = s.errcode)
    ∧ (i = .endCompute ∨ (∃ e, i = .endVerify e) → s.phase = .active →
        t.crc = s.crc ∧ t.err = s.err ∧ t.errcode = s.errcode)
    ∧ (i ≠ .start → s.phase = .idle →
        t.phase = s.phase ∧ t.crc = s.crc ∧ t.result = s.result ∧ t.done = s.done ∧ t.vkind = s.vkind ∧ t.matched = s.matched
        ∧ (s.err = true → t.err = s.err ∧ t.errcode = s.errcode))

/-! ### Command errors (60_exceptions.md) -/

/-- R143: the effect of a command error, on a clear and on a set ERR; every other field keeps its value. -/
def Obligations.CommandErrorEffect : Prop :=
  ∀ (k : CmdError) (s : State),
    (s.err = false → raiseCmdError k s = { s with err := true, errcode := k.code, phase := .idle })
    ∧ (s.err = true → raiseCmdError k s = { s with phase := .idle })

/-- R141, its third clause, with the code of R140: DATA, END_COMPUTE and END_VERIFY with no job open take NO_JOB and do nothing else. -/
def Obligations.CommandsWithoutJobRaiseNoJob : Prop :=
  ∀ (i : Instr) (s : State), i ≠ .start → s.phase = .idle →
    (s.err = false → exec i s = .next { s with err := true, errcode := 3, phase := .idle })
    ∧ (s.err = true → exec i s = .next { s with phase := .idle })

/-- R65 and R66, with the codes of R140 and R142's priority: an illegal opcode takes code 1, whatever its argument, and a set must-be-zero
bit of an assigned opcode code 2, in every phase; nothing else happens, and an earlier error's code stays. 252 opcodes are illegal. -/
def Obligations.MalformedBeatsRaiseTheirCode : Prop :=
  (∀ (beat : Beat) (s : State),
    ((∀ n : Byte, n = 1 ∨ n = 2 ∨ n = 3 ∨ n = 4 → beat.extractLsb 39 32 ≠ n) →
      (s.err = false → acceptBeat beat s = .next { s with err := true, errcode := 1, phase := .idle })
      ∧ (s.err = true → acceptBeat beat s = .next { s with phase := .idle }))
    ∧ (((beat.extractLsb 39 32 = 1#8 ∨ beat.extractLsb 39 32 = 3#8) ∧ beat.extractLsb 31 0 ≠ 0#32)
        ∨ (beat.extractLsb 39 32 = 2#8 ∧ beat.extractLsb 31 8 ≠ 0#24) →
      (s.err = false → acceptBeat beat s = .next { s with err := true, errcode := 2, phase := .idle })
      ∧ (s.err = true → acceptBeat beat s = .next { s with phase := .idle })))
  ∧ ((List.range 256).filter fun n => decode (mkBeat (BitVec.ofNat 8 n) 0) == .error .illegalOp).length = 252

/-- R180: every beat in every state gives a next state, and from there START opens a clean job. -/
def Obligations.EveryBeatCompletesAndStartRecovers : Prop :=
  ∀ (beat : Beat) (s : State), ∃ t u, acceptBeat beat s = .next t ∧ exec .start t = .next u
    ∧ u.phase = .active ∧ u.crc = 0xFFFFFFFF#32 ∧ u.err = false ∧ u.errcode = 0#4 ∧ u.done = false

/-- With ERR set, an event at the ports clears it exactly when it is a reset edge or a START beat, and ERRCODE with it (R146); while ERR stays
set, ERRCODE keeps the first code (R145). The loss of power is an event too, and that it leaves the two fields as they were is the model's
DESIGN CHOICE (log 4), no rule's: R153 says that the state is lost. So the whole is derived, not stated. -/
def Obligations.ErrorIsStickyUntilStartOrReset : Prop :=
  ∀ (e : PortEvent) (s t : State), takeEvent e s = .next t → s.err = true →
    (t.err = false ↔ ∃ pins, e = .edge pins ∧ (pins.rst = true ∨ (pins.cmdValid = true ∧ decode pins.cmd = .ok .start)))
    ∧ (t.err = false → t.errcode = 0#4)
    ∧ (t.err = true → t.errcode = s.errcode)

/-- R24, over every event at the ports: RESULT changes only at a reset edge or when END_COMPUTE or END_VERIFY closes an open job, and then
it is the finalised register. That a loss of power, one of the events, leaves the field as it was is the model's DESIGN CHOICE (log 4),
no rule's: R153 says that the state is lost. -/
def Obligations.ResultWrittenOnlyByEndOfJob : Prop :=
  ∀ (e : PortEvent) (s t : State), takeEvent e s = .next t → t.result ≠ s.result →
    ∃ pins, e = .edge pins ∧ (pins.rst = true ∨ (pins.cmdValid = true ∧ s.phase = .active ∧ t.result = finalize s.crc ∧
      (decode pins.cmd = .ok .endCompute ∨ ∃ x, decode pins.cmd = .ok (.endVerify x))))

/-- R144, its last sentence: after the error that aborts a job, nothing but a START beat lets a CRC reach RESULT. -/
def Obligations.AbortedJobNeverCompletes : Prop :=
  ∀ (k : CmdError) (bs : List Beat) (s t : State), (∀ b ∈ bs, decode b ≠ .ok .start) →
    runBeats bs (raiseCmdError k s) = .next t →
      t.result = s.result ∧ t.done = s.done ∧ t.vkind = s.vkind ∧ t.matched = s.matched ∧ t.crc = s.crc ∧ t.phase = .idle

/-! ### Whole jobs (41_job_commands.md, section 3) -/

/-- R115: the compute job, from every state. -/
def Obligations.ComputeJobGivesCrc : Prop :=
  ∀ (s : State) (d : List Byte), ∃ t, runBeats (beatsOf (computeJob d)) s = .next t
    ∧ t.result = crc32 d ∧ t.done = true ∧ t.vkind = false ∧ t.matched = false ∧ t.err = false ∧ t.errcode = 0#4
    ∧ t.phase = .idle ∧ t.resultOut = crc32 d ∧ t.statusOut = 0x00000002#32

/-- R116: the verify job, from every state. -/
def Obligations.VerifyJobGivesCrcAndComparison : Prop :=
  ∀ (s : State) (d : List Byte) (e : Word), ∃ t, runBeats (beatsOf (verifyJob d e)) s = .next t
    ∧ t.result = crc32 d ∧ t.matched = verify d e ∧ t.done = true ∧ t.vkind = true ∧ t.err = false ∧ t.errcode = 0#4
    ∧ t.phase = .idle
    ∧ (crc32 d = e → t.statusOut = 0x0000000E#32) ∧ (crc32 d ≠ e → t.statusOut = 0x00000006#32)

/-- R117: whatever two states were like before a START, after it and any beats at all (good or bad) they show the same STATUS, and the same
RESULT whenever DONE is 1. -/
def Obligations.JobsAreIsolatedFromThePast : Prop :=
  ∀ (s₁ s₂ : State) (bs : List Beat), ∃ t₁ t₂,
    runBeats (encode .start :: bs) s₁ = .next t₁ ∧ runBeats (encode .start :: bs) s₂ = .next t₂
    ∧ t₁.statusOut = t₂.statusOut ∧ t₁.matched = t₂.matched ∧ (t₁.done = true → t₁.resultOut = t₂.resultOut)

/-- R25 and 93_implementation_defined.md I4: no beats at all make the running register's value in IDLE visible on an output. -/
def Obligations.IdleRunningRegisterIsHidden : Prop :=
  ∀ (s : State) (c : Word) (bs : List Beat), s.phase = .idle → ∃ t₁ t₂,
    runBeats bs s = .next t₁ ∧ runBeats bs { s with crc := c } = .next t₂
    ∧ t₁.statusOut = t₂.statusOut ∧ t₁.resultOut = t₂.resultOut

/-- The block is at every moment the source's recorder of whole buffers: the register is run(INIT, d) of the open job's bytes, RESULT is
compute of the last completed job's bytes, MATCH is verify of them, ERRCODE the first error since START. -/
def Obligations.EveryBeatFollowsTheRecorder : Prop :=
  ∀ (r : Recorder) (s t : State) (beat : Beat), r.Matches s → acceptBeat beat s = .next t → (r.accept beat).Matches t

/-- The recorder and the block agree after reset. -/
def Obligations.RecorderMatchesReset : Prop := Recorder.init.Matches State.reset

/-- R175 and R177: with DONE = 1 RESULT is compute of the last completed job's bytes, and with VKIND = 1 as well MATCH is verify of them and
its expected value, whether or not a stray beat has set ERR since. -/
def Obligations.ValidOutputsAreTheCompletedJobs : Prop :=
  ∀ (r : Recorder) (s : State), r.Matches s → s.resultValid = true →
    ∃ f, r.finished = some f ∧ s.resultOut = crc32 f.bytes
      ∧ (s.matchValid = true → ∃ e, f.expected = some e ∧ s.matched = verify f.bytes e)
      ∧ (s.trusted = true → s.matched = true → ∃ e, f.expected = some e ∧ s.resultOut = e)

/-! ### The clocked port (20_memory.md, section 3; 70_reset_and_hazards.md) -/

/-- R46: a beat is accepted exactly at an edge with `rst` = 0, `cmd_valid` = 1 and `cmd_ready` = 1; then it is executed once; and (R172) under
`rst` the reset takes effect and no beat is accepted. -/
def Obligations.ClockedPortAcceptsOnReadyValid : Prop :=
  ∀ (latency : Nat) (pace : Pace) (pins : Pins) (t u : Clocked), t.arch.resetDone = true →
    t.edge latency pace pins = .next u →
      (pins.rst = true → t.cmdReady pins.rst = false ∧ u.arch = applyReset t.arch)
      ∧ (pins.rst = false → (pins.cmdValid = false ∨ t.cmdReady pins.rst = false) → u.arch = t.arch)
      ∧ (pins.rst = false → pins.cmdValid = true → t.cmdReady pins.rst = true → acceptBeat pins.cmd t.arch = .next u.arch)

/-- Every edge keeps the port's promises (R47, R171, R179): never busy for more than ACCEPT_LATENCY cycles, and ready only when the outputs
show every accepted beat. -/
def Obligations.ClockedEdgeKeepsPortInvariant : Prop :=
  ∀ (latency : Nat) (pace : Pace) (pins : Pins) (t u : Clocked), t.Inv latency →
    t.edge latency pace pins = .next u → u.Inv latency

/-- The model's initial clocked state keeps the port's promises and is ready. That it is ready at once is a DESIGN CHOICE (log 6): after a
reset edge R171 lets a block be busy for up to ACCEPT_LATENCY cycles, and `Clocked.resetEdge` does too. -/
def Obligations.ClockedResetMeetsPortInvariant : Prop :=
  ∀ latency : Nat, Clocked.reset.Inv latency ∧ Clocked.reset.cmdReady false = true

/-- R48: at every edge the two outputs stay as they were, both, or both become those of the block with every accepted beat's whole effect. -/
def Obligations.OutputsChangeTogether : Prop :=
  ∀ (latency : Nat) (pace : Pace) (pins : Pins) (t u : Clocked), t.edge latency pace pins = .next u →
    (u.resultPin = t.resultPin ∧ u.statusPin = t.statusPin)
    ∨ (u.resultPin = u.arch.resultOut ∧ u.statusPin = u.arch.statusOut)

/-- The clocked port refines the transaction level: whatever the pace, what a holding host has got rid of is a prefix of its beats, and
the block is where executing that prefix, once each and in order, leads (R46, R47). -/
def Obligations.ClockedPortRefinesBeats : Prop :=
  ∀ (latency : Nat) (paces : List Pace) (bs rest : List Beat) (t u : Clocked), t.arch.resetDone = true → t.Inv latency →
    t.drive latency paces bs = .next (rest, u) →
      (∃ sent, bs = sent ++ rest ∧ runBeats sent t.arch = .next u.arch)
      ∧ (u.cmdReady false = true → u.shown = u.arch)

/-- R176: once END_COMPUTE or END_VERIFY has been accepted in an open job, a host that sees `cmd_ready` = 1, or STATUS with DONE = 1 and
ACTIVE = 0, sees that job's outcome on both outputs. The premises are those of a ready block that keeps the port's promises. -/
def Obligations.EitherSignShowsTheOutcome : Prop :=
  ∀ (latency : Nat) (pace : Pace) (paces : List Pace) (beat : Beat) (t u : Clocked), t.arch.resetDone = true →
    t.wait = 0 → t.shown = t.arch → t.arch.phase = .active →
    (decode beat = .ok .endCompute ∨ ∃ x, decode beat = .ok (.endVerify x)) →
    t.drive latency (pace :: paces) [beat] = .next ([], u) →
      (u.cmdReady false = true ∨ (u.statusPin.getLsbD 1 = true ∧ u.statusPin.getLsbD 0 = false)) →
        u.resultPin = finalize t.arch.crc ∧ u.statusPin = u.arch.statusOut ∧ acceptBeat beat t.arch = .next u.arch

/-- R179, for one beat: from any moment of the port's life an offered beat is accepted within ACCEPT_LATENCY busy cycles. -/
def Obligations.OfferedBeatIsAcceptedInTime : Prop :=
  ∀ (latency : Nat) (paces : List Pace) (beat : Beat) (t : Clocked), 0 < latency → t.arch.resetDone = true → t.Inv latency →
    latency < paces.length → ∃ u, t.drive latency paces [beat] = .next ([], u) ∧ acceptBeat beat t.arch = .next u.arch

/-- R179 for a job: offered to a ready block, a job of n bytes shows its outcome within (n + 2) × ACCEPT_LATENCY cycles, whatever the
block's pace and whatever state it was in. -/
def Obligations.JobCompletesWithinLinearTime : Prop :=
  ∀ (latency : Nat) (paces : List Pace) (d : List Byte) (x : Word) (t : Clocked), 0 < latency → t.arch.resetDone = true →
    t.wait = 0 → (d.length + 2) * latency ≤ paces.length →
      (∃ u, t.drive latency paces (beatsOf (computeJob d)) = .next ([], u)
        ∧ u.resultPin = crc32 d ∧ u.statusPin = 0x00000002#32 ∧ u.cmdReady false = true)
      ∧ ∃ u, t.drive latency paces (beatsOf (verifyJob d x)) = .next ([], u)
        ∧ u.resultPin = crc32 d ∧ u.statusPin = (if verify d x then 0x0000000E#32 else 0x00000006#32) ∧ u.cmdReady false = true

/-! ### The platform and the assembler (60_exceptions.md R151; 30_encoding.md R68, R69) -/

/-- R151: nothing one instance does changes another. -/
def Obligations.InstancesAreIndependent : Prop :=
  ∀ (k j : Nat) (e : PortEvent) (ms ns : Platform), Platform.deliver k e ms = .next ns → j ≠ k → ns[j]? = ms[j]?

/-- R69 run: a CRC line with every byte in range assembles to n + 2 beats, and those beats leave compute of the list in RESULT; R68: a
line with an operand out of range emits no beat. -/
def Obligations.AssembledCrcLineComputes : Prop :=
  (∀ (l : List Nat) (s : State), (∀ n ∈ l, n < 256) → ∃ bs t, (Asm.Item.crc l).assemble = some bs ∧ bs.length = l.length + 2
    ∧ runBeats bs s = .next t ∧ t.resultOut = crc32 (l.map (BitVec.ofNat 8)))
  ∧ ∀ l : List Nat, (∃ n ∈ l, 256 ≤ n) → (Asm.Item.crc l).assemble = none

/-- R68: the four command lines and `.BEAT`, with an operand in range, are the beats the table gives; with one out of range, no beat. -/
def Obligations.AssemblerEmitsTheListedBeats : Prop :=
  Asm.Item.start.assemble = some [0x0100000000]
  ∧ Asm.Item.endCompute.assemble = some [0x0300000000]
  ∧ (∀ n, n < 256 → (Asm.Item.data n).assemble = some [BitVec.ofNat 40 (0x0200000000 + n)])
  ∧ (∀ n, n < 2 ^ 32 → (Asm.Item.endVerify n).assemble = some [BitVec.ofNat 40 (0x0400000000 + n)])
  ∧ (∀ n, n < 2 ^ 40 → (Asm.Item.beat n).assemble = some [BitVec.ofNat 40 n])
  ∧ (∀ n, 256 ≤ n → (Asm.Item.data n).assemble = none)
  ∧ (∀ n, 2 ^ 32 ≤ n → (Asm.Item.endVerify n).assemble = none)
  ∧ (∀ n, 2 ^ 40 ≤ n → (Asm.Item.beat n).assemble = none)
end

