-- ==== Sys2Proof/Laws/Crc.lean ====
section
/-! SUPPORT. The algebra of the bit step: it is linear over exclusive OR and it loses nothing (40_crc_function.md R91, R100, R101 rest on
it). -/

namespace Sys2Proof.Machine

theorem stepBit_getLsbD (c : Word) (i : Nat) :
    (stepBit c).getLsbD i = (c.getLsbD (i + 1) ^^ (c.getLsbD 0 && Config.rpoly.getLsbD i)) := by
  unfold stepBit
  cases h : c.getLsbD 0 <;> simp [Nat.add_comm]

theorem stepBitN_getLsbD (c : Word) (i : Nat) (h : i < 32) :
    (stepBitN c).getLsbD i = ((decide (0 < i) && c.getLsbD (i - 1)) ^^ (c.getLsbD 31 && Config.npoly.getLsbD i)) := by
  unfold stepBitN
  cases c.getLsbD 31 <;>
    simp only [Bool.false_eq_true, ↓reduceIte, BitVec.getLsbD_xor, BitVec.getLsbD_shiftLeft, h, decide_true, Bool.true_and,
      Bool.false_and, Bool.xor_false, Nat.lt_one_iff, Nat.pos_iff_ne_zero, decide_not, ne_eq]

@[simp] theorem stepBit_zero : stepBit 0 = 0 := by decide +kernel

/-- The bit step is linear (the ground of R91 and R101). -/
theorem stepBit_xor (c d : Word) : stepBit (c ^^^ d) = stepBit c ^^^ stepBit d := by
  apply BitVec.eq_of_getLsbD_eq
  intro i h
  simp only [stepBit_getLsbD, BitVec.getLsbD_xor]
  cases c.getLsbD 0 <;> cases d.getLsbD 0 <;> cases c.getLsbD (i + 1) <;> cases d.getLsbD (i + 1) <;>
    cases Config.rpoly.getLsbD i <;> rfl

theorem stepBit_iterate_xor (n : Nat) (c d : Word) : stepBit^[n] (c ^^^ d) = stepBit^[n] c ^^^ stepBit^[n] d := by
  induction n generalizing c d with
  | zero => rfl
  | succ n ih => simp only [Function.iterate_succ_apply, stepBit_xor, ih]

/-- Bit 31 of the next register tells bit 0 of this one, so nothing is lost in a bit step (the ground of R100). -/
theorem stepBit_injective : Function.Injective stepBit := by
  intro c d h
  have hbit (i : Nat) : (stepBit c).getLsbD i = (stepBit d).getLsbD i := by rw [h]
  have low : c.getLsbD 0 = d.getLsbD 0 := by
    have := hbit 31
    rw [stepBit_getLsbD, stepBit_getLsbD, BitVec.getLsbD_of_ge c 32 (by omega), BitVec.getLsbD_of_ge d 32 (by omega),
      show Config.rpoly.getLsbD 31 = true by decide +kernel] at this
    simpa only [Bool.false_xor, Bool.and_true] using this
  apply BitVec.eq_of_getLsbD_eq
  intro i hi
  cases i with
  | zero => exact low
  | succ i =>
    have := hbit i
    rw [stepBit_getLsbD, stepBit_getLsbD, low] at this
    exact Bool.xor_left_inj.mp this

theorem upd_injective_register (b : Byte) : Function.Injective (upd · b) := by
  intro c d h
  have := (stepBit_injective.iterate 8) h
  exact (BitVec.xor_left_inj _).mp this

theorem upd_xor (c d : Word) (a b : Byte) : upd (c ^^^ d) (a ^^^ b) = upd c a ^^^ upd d b := by
  have : c ^^^ d ^^^ zext32 (a ^^^ b) = (c ^^^ zext32 a) ^^^ (d ^^^ zext32 b) := by
    simp only [zext32, BitVec.setWidth_xor]
    ac_rfl
  simp only [upd, this, stepBit_iterate_xor]

theorem runCrc_append (c : Word) (a b : List Byte) : runCrc c (a ++ b) = runCrc (runCrc c a) b := by
  induction a generalizing c with
  | nil => rfl
  | cons x xs ih => simp only [List.cons_append, runCrc, ih]

@[simp] theorem finalize_finalize (c : Word) : finalize (finalize c) = c := by
  simp [finalize]

end Sys2Proof.Machine
end

