-- ==== Sys2Proof/Laws/Decode.lean ====
section
/-! SUPPORT. The two fields of a beat, taken apart and put together, and what decoding answers. -/

namespace Sys2Proof

open Machine

theorem mkBeat_getLsbD (op : Byte) (arg : Word) (i : Nat) (h : i < 40) :
    (mkBeat op arg).getLsbD i = if i < 32 then arg.getLsbD i else op.getLsbD (i - 32) := by
  unfold mkBeat
  split <;> rename_i h32
  · simp only [BitVec.getLsbD_or, BitVec.getLsbD_shiftLeft, BitVec.getLsbD_setWidth, h, h32, decide_true, Bool.not_true,
      Bool.and_false, Bool.false_and, Bool.false_or, Bool.true_and]
  · have high : arg.getLsbD i = false := BitVec.getLsbD_of_ge arg i (by omega)
    have inside : i - 32 < 40 := by omega
    simp only [BitVec.getLsbD_or, BitVec.getLsbD_shiftLeft, BitVec.getLsbD_setWidth, h, h32, high, inside, decide_true,
      decide_false, Bool.not_false, Bool.and_true, Bool.true_and, Bool.and_false, Bool.or_false]

@[simp] theorem opField_mkBeat (op : Byte) (arg : Word) : opField (mkBeat op arg) = op := by
  apply BitVec.eq_of_getLsbD_eq
  intro i h
  rw [opField, BitVec.getLsbD_extractLsb', mkBeat_getLsbD op arg (32 + i) (by omega),
    if_neg (show ¬ 32 + i < 32 by omega), Nat.add_sub_cancel_left]
  simp only [h, decide_true, Bool.true_and]

@[simp] theorem argField_mkBeat (op : Byte) (arg : Word) : argField (mkBeat op arg) = arg := by
  apply BitVec.eq_of_getLsbD_eq
  intro i h
  rw [argField, BitVec.getLsbD_extractLsb', mkBeat_getLsbD op arg (0 + i) (by omega), Nat.zero_add, if_pos h]
  simp only [h, decide_true, Bool.true_and]

/-- A beat is its two fields (30_encoding.md R60). -/
theorem mkBeat_fields (beat : Beat) : mkBeat (opField beat) (argField beat) = beat := by
  apply BitVec.eq_of_getLsbD_eq
  intro i h
  rw [mkBeat_getLsbD _ _ i h]
  unfold opField argField
  rw [BitVec.getLsbD_extractLsb', BitVec.getLsbD_extractLsb', Nat.zero_add]
  split <;> rename_i h32
  · simp only [h32, decide_true, Bool.true_and]
  · rw [Nat.add_sub_cancel' (by omega)]
    simp only [show i - 32 < 8 by omega, decide_true, Bool.true_and]

@[simp] theorem reservedClear_word (arg : Word) : Form.w.reservedClear arg = true := by
  simp [Form.reservedClear, Form.mustBeZero]

@[simp] theorem reservedClear_zero (f : Form) : f.reservedClear 0#32 = true := by
  simp [Form.reservedClear]

theorem reservedClear_none_iff (arg : Word) : Form.z.reservedClear arg = true ↔ arg = 0 := by
  have : arg &&& Form.z.mustBeZero = arg := by
    change arg &&& BitVec.allOnes 32 = arg
    exact BitVec.and_allOnes
  simp [Form.reservedClear, this]

theorem reservedClear_byte_iff (arg : Word) :
    Form.b.reservedClear arg = true ↔ zext32 (byteOperand arg) = arg := by
  have mask (i : Nat) (h : i < 32) : Form.b.mustBeZero.getLsbD i = decide (8 ≤ i) := by
    have : ∀ i : Fin 32, Form.b.mustBeZero.getLsbD i = decide (8 ≤ i.val) := by decide +kernel
    exact this ⟨i, h⟩
  have zext (i : Nat) (h : i < 32) : (zext32 (byteOperand arg)).getLsbD i = (decide (i < 8) && arg.getLsbD i) := by
    rw [zext32, byteOperand, BitVec.getLsbD_setWidth, BitVec.getLsbD_extractLsb', Nat.zero_add]
    simp only [h, decide_true, Bool.true_and]
  simp only [Form.reservedClear, beq_iff_eq]
  constructor <;> intro h <;> apply BitVec.eq_of_getLsbD_eq <;> intro i hi
  · have := congrArg (fun v : Word => v.getLsbD i) h
    simp only [BitVec.getLsbD_and, mask i hi, BitVec.ofNat_eq_ofNat, BitVec.getLsbD_zero] at this
    rw [zext i hi]
    by_cases h8 : i < 8
    · simp only [h8, decide_true, Bool.true_and]
    · rw [decide_eq_true (show 8 ≤ i by omega), Bool.and_true] at this
      simp only [h8, decide_false, Bool.false_and, this]
  · have := congrArg (fun v : Word => v.getLsbD i) h
    rw [zext i hi] at this
    rw [BitVec.getLsbD_and, mask i hi, ← this]
    by_cases h8 : i < 8
    · simp only [h8, show ¬ 8 ≤ i by omega, decide_false, Bool.and_false, BitVec.ofNat_eq_ofNat, BitVec.getLsbD_zero]
    · simp only [h8, decide_false, Bool.false_and, BitVec.ofNat_eq_ofNat, BitVec.getLsbD_zero]

@[simp] theorem byteOperand_zext32 (b : Byte) : byteOperand (zext32 b) = b := by
  apply BitVec.eq_of_getLsbD_eq
  intro i h
  simp [byteOperand, zext32, h, show i < 32 by omega]

/-- Everything decoding can answer (R64), with what it asks of the beat's fields. -/
theorem decode_cases (beat : Beat) :
    (decode beat = .ok .start ∧ opField beat = 0x01 ∧ argField beat = 0)
    ∨ (decode beat = .ok (.data (byteOperand (argField beat))) ∧ opField beat = 0x02
        ∧ Form.b.reservedClear (argField beat) = true)
    ∨ (decode beat = .ok .endCompute ∧ opField beat = 0x03 ∧ argField beat = 0)
    ∨ (decode beat = .ok (.endVerify (argField beat)) ∧ opField beat = 0x04)
    ∨ (decode beat = .error .reservedArg ∧ beatOpAssigned beat = true ∧ beatReservedClear beat = false)
    ∨ (decode beat = .error .illegalOp ∧ beatOpAssigned beat = false) := by
  unfold decode beatOpAssigned beatReservedClear formOf
  by_cases h1 : opField beat = 0x01
  · by_cases hz : Form.z.reservedClear (argField beat) = true
    · simp [h1, (reservedClear_none_iff _).mp hz]
    · simp [h1, hz]
  by_cases h2 : opField beat = 0x02
  · by_cases hb : Form.b.reservedClear (argField beat) = true <;> simp [h2, hb]
  by_cases h3 : opField beat = 0x03
  · by_cases hz : Form.z.reservedClear (argField beat) = true
    · simp [h3, (reservedClear_none_iff _).mp hz]
    · simp [h3, hz]
  by_cases h4 : opField beat = 0x04
  · simp [h4, wordOperand]
  · simp_all

end Sys2Proof
end

