-- ==== Sys2Proof/Laws/PerInstr.lean ====
section
/-! SUPPORT. Facts about every command as syntax, one lemma a constructor. -/

/-- The beat a command is laid out in has its opcode and its argument in their fields, and spells a command
(30_encoding.md R60 to R62). -/
def Sys2Proof.Laws.EncodedFields.Statement (i : Sys2Proof.Instr) : Prop :=
  Sys2Proof.Machine.opField (Sys2Proof.encode i) = Sys2Proof.Machine.opcode i
  ∧ Sys2Proof.Machine.argField (Sys2Proof.encode i) = Sys2Proof.Machine.argument i
  ∧ Sys2Proof.beatWf (Sys2Proof.encode i) = true

namespace Sys2Proof.Laws.EncodedFields

open Sys2Proof Sys2Proof.Machine

theorem start : Statement .start := by
  simp [Statement, encode, beatWf, beatOpAssigned, beatReservedClear, opcode, argument, formOf]

theorem data (b : Byte) : Statement (.data b) := by
  have := (reservedClear_byte_iff (zext32 b)).mpr (by simp)
  simp [Statement, encode, beatWf, beatOpAssigned, beatReservedClear, opcode, argument, formOf, this]

theorem endCompute : Statement .endCompute := by
  simp [Statement, encode, beatWf, beatOpAssigned, beatReservedClear, opcode, argument, formOf]

theorem endVerify (e : Word) : Statement (.endVerify e) := by
  simp [Statement, encode, beatWf, beatOpAssigned, beatReservedClear, opcode, argument, formOf]

end Sys2Proof.Laws.EncodedFields
end

