-- ==== Sys2Proof/Laws/State.lean ====
section
/-! SUPPORT. What each shared update does to each field of the state, one lemma a field, so that no later proof unfolds a record
update. -/

namespace Sys2Proof.Machine

variable (s : State)

/-! ### latchError -/

@[simp] theorem latchError_phase (k : CmdError) : (latchError k s).phase = s.phase := by
  unfold latchError; split <;> rfl
@[simp] theorem latchError_crc (k : CmdError) : (latchError k s).crc = s.crc := by
  unfold latchError; split <;> rfl
@[simp] theorem latchError_result (k : CmdError) : (latchError k s).result = s.result := by
  unfold latchError; split <;> rfl
@[simp] theorem latchError_done (k : CmdError) : (latchError k s).done = s.done := by
  unfold latchError; split <;> rfl
@[simp] theorem latchError_vkind (k : CmdError) : (latchError k s).vkind = s.vkind := by
  unfold latchError; split <;> rfl
@[simp] theorem latchError_matched (k : CmdError) : (latchError k s).matched = s.matched := by
  unfold latchError; split <;> rfl
@[simp] theorem latchError_err (k : CmdError) : (latchError k s).err = true := by
  unfold latchError; split <;> simp_all
@[simp] theorem latchError_errcode (k : CmdError) : (latchError k s).errcode = if s.err = false then k.code else s.errcode := by
  unfold latchError; split <;> rfl
@[simp] theorem latchError_resetDone (k : CmdError) : (latchError k s).resetDone = s.resetDone := by
  unfold latchError; split <;> rfl
@[simp] theorem latchError_inputs (k : CmdError) : (latchError k s).inputs = s.inputs := by
  unfold latchError; split <;> rfl

/-! ### clearFlags -/

@[simp] theorem clearFlags_phase : (clearFlags s).phase = s.phase := rfl
@[simp] theorem clearFlags_crc : (clearFlags s).crc = s.crc := rfl
@[simp] theorem clearFlags_result : (clearFlags s).result = s.result := rfl
@[simp] theorem clearFlags_done : (clearFlags s).done = false := rfl
@[simp] theorem clearFlags_vkind : (clearFlags s).vkind = false := rfl
@[simp] theorem clearFlags_matched : (clearFlags s).matched = false := rfl
@[simp] theorem clearFlags_err : (clearFlags s).err = false := rfl
@[simp] theorem clearFlags_errcode : (clearFlags s).errcode = 0 := rfl
@[simp] theorem clearFlags_resetDone : (clearFlags s).resetDone = s.resetDone := rfl
@[simp] theorem clearFlags_inputs : (clearFlags s).inputs = s.inputs := rfl

/-! ### raiseCmdError -/

@[simp] theorem raiseCmdError_phase (k : CmdError) : (raiseCmdError k s).phase = Phase.idle := rfl
@[simp] theorem raiseCmdError_crc (k : CmdError) : (raiseCmdError k s).crc = s.crc := latchError_crc s k
@[simp] theorem raiseCmdError_result (k : CmdError) : (raiseCmdError k s).result = s.result := latchError_result s k
@[simp] theorem raiseCmdError_done (k : CmdError) : (raiseCmdError k s).done = s.done := latchError_done s k
@[simp] theorem raiseCmdError_vkind (k : CmdError) : (raiseCmdError k s).vkind = s.vkind := latchError_vkind s k
@[simp] theorem raiseCmdError_matched (k : CmdError) : (raiseCmdError k s).matched = s.matched := latchError_matched s k
@[simp] theorem raiseCmdError_err (k : CmdError) : (raiseCmdError k s).err = true := latchError_err s k
@[simp] theorem raiseCmdError_errcode (k : CmdError) : (raiseCmdError k s).errcode = if s.err = false then k.code else s.errcode := latchError_errcode s k
@[simp] theorem raiseCmdError_resetDone (k : CmdError) : (raiseCmdError k s).resetDone = s.resetDone := latchError_resetDone s k
@[simp] theorem raiseCmdError_inputs (k : CmdError) : (raiseCmdError k s).inputs = s.inputs := latchError_inputs s k

/-! ### openJob -/

@[simp] theorem openJob_phase : (openJob s).phase = Phase.active := rfl
@[simp] theorem openJob_crc : (openJob s).crc = Config.init := rfl
@[simp] theorem openJob_result : (openJob s).result = s.result := rfl
@[simp] theorem openJob_done : (openJob s).done = false := rfl
@[simp] theorem openJob_vkind : (openJob s).vkind = false := rfl
@[simp] theorem openJob_matched : (openJob s).matched = false := rfl
@[simp] theorem openJob_err : (openJob s).err = false := rfl
@[simp] theorem openJob_errcode : (openJob s).errcode = 0 := rfl
@[simp] theorem openJob_resetDone : (openJob s).resetDone = s.resetDone := rfl
@[simp] theorem openJob_inputs : (openJob s).inputs = s.inputs := rfl

/-! ### feedByte -/

@[simp] theorem feedByte_phase (e : Config.Engine) (b : Byte) : (feedByte e b s).phase = s.phase := rfl
@[simp] theorem feedByte_crc (e : Config.Engine) (b : Byte) : (feedByte e b s).crc = byteUpdate e s.crc b := rfl
@[simp] theorem feedByte_result (e : Config.Engine) (b : Byte) : (feedByte e b s).result = s.result := rfl
@[simp] theorem feedByte_done (e : Config.Engine) (b : Byte) : (feedByte e b s).done = s.done := rfl
@[simp] theorem feedByte_vkind (e : Config.Engine) (b : Byte) : (feedByte e b s).vkind = s.vkind := rfl
@[simp] theorem feedByte_matched (e : Config.Engine) (b : Byte) : (feedByte e b s).matched = s.matched := rfl
@[simp] theorem feedByte_err (e : Config.Engine) (b : Byte) : (feedByte e b s).err = s.err := rfl
@[simp] theorem feedByte_errcode (e : Config.Engine) (b : Byte) : (feedByte e b s).errcode = s.errcode := rfl
@[simp] theorem feedByte_resetDone (e : Config.Engine) (b : Byte) : (feedByte e b s).resetDone = s.resetDone := rfl
@[simp] theorem feedByte_inputs (e : Config.Engine) (b : Byte) : (feedByte e b s).inputs = s.inputs := rfl

/-! ### closeJob -/

@[simp] theorem closeJob_phase (v m : Bool) : (closeJob v m s).phase = Phase.idle := rfl
@[simp] theorem closeJob_crc (v m : Bool) : (closeJob v m s).crc = s.crc := rfl
@[simp] theorem closeJob_result (v m : Bool) : (closeJob v m s).result = finalize s.crc := rfl
@[simp] theorem closeJob_done (v m : Bool) : (closeJob v m s).done = true := rfl
@[simp] theorem closeJob_vkind (v m : Bool) : (closeJob v m s).vkind = v := rfl
@[simp] theorem closeJob_matched (v m : Bool) : (closeJob v m s).matched = m := rfl
@[simp] theorem closeJob_err (v m : Bool) : (closeJob v m s).err = s.err := rfl
@[simp] theorem closeJob_errcode (v m : Bool) : (closeJob v m s).errcode = s.errcode := rfl
@[simp] theorem closeJob_resetDone (v m : Bool) : (closeJob v m s).resetDone = s.resetDone := rfl
@[simp] theorem closeJob_inputs (v m : Bool) : (closeJob v m s).inputs = s.inputs := rfl

/-! ### applyReset -/

@[simp] theorem applyReset_phase : (applyReset s).phase = State.reset.phase := rfl
@[simp] theorem applyReset_crc : (applyReset s).crc = State.reset.crc := rfl
@[simp] theorem applyReset_result : (applyReset s).result = State.reset.result := rfl
@[simp] theorem applyReset_done : (applyReset s).done = State.reset.done := rfl
@[simp] theorem applyReset_vkind : (applyReset s).vkind = State.reset.vkind := rfl
@[simp] theorem applyReset_matched : (applyReset s).matched = State.reset.matched := rfl
@[simp] theorem applyReset_err : (applyReset s).err = State.reset.err := rfl
@[simp] theorem applyReset_errcode : (applyReset s).errcode = State.reset.errcode := rfl
@[simp] theorem applyReset_resetDone : (applyReset s).resetDone = State.reset.resetDone := rfl
@[simp] theorem applyReset_inputs : (applyReset s).inputs = s.inputs := rfl

end Sys2Proof.Machine
end

