-- ==== Sys2Proof/Laws/Step.lean ====
section
/-! SUPPORT. Everything a shared operation, a command, a beat, a port event and a step can do, said once each; later proofs cite these and do
not unfold the operations. -/

namespace Sys2Proof.Machine

@[simp] theorem andThen_next {σ τ φ ρ : Type} (s : σ) (f : σ → Host.Outcome τ φ ρ) :
    andThen (.next s) f = f s := rfl

theorem andThen_eq_next {σ τ φ ρ : Type} {o : Host.Outcome σ φ ρ} {f : σ → Host.Outcome τ φ ρ} {t : τ}
    (h : andThen o f = .next t) : ∃ s, o = .next s ∧ f s = .next t := by
  cases o with
  | next s => exact ⟨s, rfl, h⟩
  | fault r => exact absurd h (by simp [andThen])
  | refused r => exact absurd h (by simp [andThen])

theorem inJob_active {f : State → State} {s : State} (h : s.phase = .active) : inJob f s = f s := by
  simp [inJob, h]

theorem inJob_idle {f : State → State} {s : State} (h : s.phase = .idle) : inJob f s = raiseCmdError .noJob s := by
  simp [inJob, h]

/-- Everything a command can do. -/
theorem exec_cases {i : Instr} {s t : State} (h : exec i s = .next t) :
    (i = .start ∧ t = openJob s)
    ∨ (i ≠ .start ∧ s.phase = .idle ∧ t = raiseCmdError .noJob s)
    ∨ (s.phase = .active ∧ ∃ b, i = .data b ∧ t = feedByte Config.modelEngine b s)
    ∨ (s.phase = .active ∧ i = .endCompute ∧ t = closeJob false false s)
    ∨ (s.phase = .active ∧ ∃ e, i = .endVerify e ∧ t = closeJob true (matchFlag (finalize s.crc) e) s) := by
  cases i with
  | start => exact .inl ⟨rfl, by simpa [exec, execStart] using h.symm⟩
  | data b =>
    obtain hp | hp : s.phase = .idle ∨ s.phase = .active := by cases s.phase <;> simp
    · exact .inr (.inl ⟨by simp, hp, by simpa [exec, execData, inJob_idle hp] using h.symm⟩)
    · exact .inr (.inr (.inl ⟨hp, b, rfl, by simpa [exec, execData, inJob_active hp] using h.symm⟩))
  | endCompute =>
    obtain hp | hp : s.phase = .idle ∨ s.phase = .active := by cases s.phase <;> simp
    · exact .inr (.inl ⟨by simp, hp, by simpa [exec, execEndCompute, inJob_idle hp] using h.symm⟩)
    · exact .inr (.inr (.inr (.inl ⟨hp, rfl, by simpa [exec, execEndCompute, inJob_active hp] using h.symm⟩)))
  | endVerify e =>
    obtain hp | hp : s.phase = .idle ∨ s.phase = .active := by cases s.phase <;> simp
    · exact .inr (.inl ⟨by simp, hp, by simpa [exec, execEndVerify, inJob_idle hp] using h.symm⟩)
    · exact .inr (.inr (.inr (.inr ⟨hp, e, rfl, by simpa [exec, execEndVerify, inJob_active hp] using h.symm⟩)))

/-- Everything an accepted beat can do: a command, or one of the two errors of decoding. -/
theorem acceptBeat_cases {beat : Beat} {s t : State} (h : acceptBeat beat s = .next t) :
    (∃ i, decode beat = .ok i ∧ exec i s = .next t) ∨ (∃ k, decode beat = .error k ∧ t = raiseCmdError k s) := by
  unfold acceptBeat at h
  split at h
  · exact .inl ⟨_, ‹_›, h⟩
  · exact .inr ⟨_, ‹_›, by simpa using h.symm⟩

/-- Everything a port event can do when it answers a next state. -/
theorem takeEvent_cases {e : PortEvent} {s t : State} (h : takeEvent e s = .next t) :
    (e = .powerOff ∧ t = { s with resetDone := false })
    ∨ (∃ p, e = .edge p ∧ p.rst = true ∧ t = applyReset s)
    ∨ (∃ p, e = .edge p ∧ p.rst = false ∧ p.cmdValid = false ∧ t = s)
    ∨ (∃ p, e = .edge p ∧ p.rst = false ∧ p.cmdValid = true ∧ s.resetDone = true ∧ acceptBeat p.cmd s = .next t) := by
  cases e with
  | powerOff => exact .inl ⟨rfl, by simpa [takeEvent] using h.symm⟩
  | edge p =>
    simp only [takeEvent, takeEdge, offerBeat] at h
    cases hr : p.rst with
    | true => exact .inr (.inl ⟨p, rfl, hr, by simpa [hr] using h.symm⟩)
    | false =>
      cases hv : p.cmdValid with
      | false => exact .inr (.inr (.inl ⟨p, rfl, hr, hv, by simpa [hr, hv] using h.symm⟩))
      | true =>
        cases hd : s.resetDone with
        | false => simp [hr, hv, hd] at h
        | true => exact .inr (.inr (.inr ⟨p, rfl, hr, hv, rfl, by simpa [hr, hv, hd] using h⟩))

/-- Everything a step can do: with no event queued, nothing; else the next event. -/
theorem step_cases {s t : State} (h : step s = .next t) :
    (s.inputs = [] ∧ t = s) ∨ (∃ e rest, s.inputs = e :: rest ∧ takeEvent e { s with inputs := rest } = .next t) := by
  unfold step at h
  split at h
  · exact .inl ⟨‹_›, by simpa using h.symm⟩
  · exact .inr ⟨_, _, ‹_›, h⟩

end Sys2Proof.Machine
end

