-- ==== Sys2Proof/Tests/Slice0.lean ====
section
/-! SUPPORT. Tests: the checks of well-formedness refuse, words written out from 30_encoding.md decode, one step of each command gives what
95_test_vectors.md lists, and every hypothesis of a statement is met by something. Expected values are the spec's. -/

-- One test at a time: each kernel evaluation would otherwise take a thread, and the package as one text asks for too many.
set_option Elab.async false

namespace Sys2Proof.Tests

open Machine

/-- A state with an open job and the given running register. -/
def opened (crc : Word) : State := { State.reset with phase := .active, crc := crc }

/-- The next state of an outcome, if there is one. -/
def nextOf {σ φ ρ : Type} : Host.Outcome σ φ ρ → Option σ
  | .next s => some s
  | .fault _ => none
  | .refused _ => none

/-- The two outputs after an outcome, RESULT first. -/
def outputsOf (o : Result) : Option (Word × Word) := (nextOf o).map fun s => (s.resultOut, s.statusOut)

/-! ### Well-formedness: each check refuses an ill-formed term -/

theorem smoke_opcode_zero_not_assigned : beatOpAssigned 0x0000000000 = false := by decide +kernel
theorem smoke_opcode_five_not_assigned : beatOpAssigned 0x0500000000 = false := by decide +kernel
theorem smoke_start_with_argument_not_clear : beatReservedClear 0x0100000001 = false := by decide +kernel
theorem smoke_data_with_ninth_bit_not_clear : beatReservedClear 0x0200000100 = false := by decide +kernel
theorem smoke_end_compute_with_top_bit_not_wf : beatWf 0x0380000000 = false := by decide +kernel
theorem smoke_verify_with_any_argument_wf : beatWf 0x04FFFFFFFF = true := by decide +kernel
theorem smoke_asm_byte_out_of_range : (Asm.Item.data 256).wf = false := by decide +kernel
theorem smoke_asm_word_out_of_range : (Asm.Item.endVerify (2 ^ 32)).wf = false := by decide +kernel
theorem smoke_asm_beat_out_of_range : (Asm.Item.beat (2 ^ 40)).wf = false := by decide +kernel
theorem smoke_asm_list_out_of_range : (Asm.Item.crc [1, 300]).wf = false := by decide +kernel
theorem smoke_asm_verify_out_of_range : (Asm.Item.verify [1] (2 ^ 32)).wf = false := by decide +kernel
theorem smoke_asm_bytes_out_of_range : (Asm.Item.bytes [256]).wf = false := by decide +kernel
theorem smoke_instr_wf : [Instr.start, .data 0xFF, .endCompute, .endVerify 0xFFFFFFFF].all Instr.wf = true := by decide

/-! ### Decoding: words written out bit by bit from the encoding rows (30_encoding.md R60 to R62, R70) -/

theorem test_decode_start : decode 0b00000001_00000000_00000000_00000000_00000000 = .ok .start := by decide +kernel
theorem test_decode_data : decode 0b00000010_00000000_00000000_00000000_10100110 = .ok (.data 0xA6) := by decide +kernel
theorem test_decode_end_compute : decode 0b00000011_00000000_00000000_00000000_00000000 = .ok .endCompute := by decide +kernel
theorem test_decode_end_verify : decode 0b00000100_11001011_11110100_00111001_00100110 = .ok (.endVerify 0xCBF43926) := by
  decide +kernel
theorem test_decode_all_zero : decode 0x0000000000 = .error .illegalOp := by decide +kernel
theorem test_decode_reserved_bit : decode 0x0200000131 = .error .reservedArg := by decide +kernel
theorem test_encode_verify : encode (.endVerify 0x352441C2) = 0x04352441C2 := by decide +kernel
theorem test_decode_table_word : decodeTableWord 40 0x02000000FF = some (.data 0xFF) := by decide +kernel
theorem test_decode_table_word_rejects : decodeTableWord 40 0x0500000000 = none := by decide +kernel

/-! ### The function (95_test_vectors.md 2.1 to 2.4) -/

theorem test_bit_step_set_and_clear :
    stepBit 0xFFFFFFFF = 0x92477CDF ∧ stepBit 0x80000000 = 0x40000000 ∧ stepBit 0x12345678 = 0x091A2B3C := by decide +kernel
theorem test_upd_trace :
    upd 0xFFFFFFFF 0x31 = 0x7C231048 ∧ upd 0x7C231048 0x32 = 0xB0ACBB32 ∧ upd 0x651F2550 0x39 = 0x340BC6D9 := by decide +kernel
theorem test_upd_vectors :
    upd 0x80000000 0x00 = 0x00800000 ∧ upd 0x12345678 0xAB = 0x1FC8B738 ∧ upd 0x00FFFFFF 0xFF = 0x0000FFFF := by decide +kernel
theorem test_updT_vectors :
    updT 0x80000000 0x00 = 0x00800000 ∧ updT 0x12345678 0xAB = 0x1FC8B738 ∧ updT 0x00FFFFFF 0xFF = 0x0000FFFF := by decide +kernel
theorem test_table_entries :
    tableEntry 0xCE = 0x7CDCEFB7 ∧ tableEntry 0xD3 = 0x1FDA836E ∧ tableEntry 0xFF = 0x2D02EF8D := by decide +kernel
theorem test_crc32_vectors :
    crc32 [0x61] = 0xE8B7BE43 ∧ crc32 [0x61, 0x62, 0x63] = 0x352441C2 ∧ crc32 [0xFF, 0xFF, 0xFF, 0xFF, 0x00] = 0xFFFFFFFF := by
  decide +kernel
theorem test_normal_form : crc32N [0x61, 0x62, 0x63] = 0x352441C2 := by decide +kernel
theorem test_verify_does_not_swap :
    verify [0x31, 0x32, 0x33, 0x34, 0x35, 0x36, 0x37, 0x38, 0x39] 0x2639F4CB = false := by decide +kernel
theorem test_residue_bytes : bytesLsbFirst 0xCBF43926 = [0x26, 0x39, 0xF4, 0xCB] := by decide +kernel

/-! ### One step of each command (95_test_vectors.md 2.5, 2.6, P2, P3, P5) -/

theorem test_reset_outputs : State.reset.readResult = some 0x00000000 ∧ State.reset.readStatus = some 0x00000000 := by
  decide +kernel
theorem test_start_status : outputsOf (exec .start State.reset) = some (0x00000000, 0x00000001) := by decide +kernel
theorem test_start_keeps_stale_result :
    outputsOf (exec .start { State.reset with result := 0x352441C2, done := true, vkind := true, matched := true }) =
      some (0x352441C2, 0x00000001) := by decide +kernel
theorem test_data_updates_register :
    (nextOf (exec (.data 0x00) (opened 0xFFFFFFFF))).map (·.crc) = some 0x2DFD1072 := by decide +kernel
theorem test_data_without_job : outputsOf (exec (.data 0x41) State.reset) = some (0x00000000, 0x00000310) := by decide +kernel
theorem test_end_compute_check_value :
    outputsOf (exec .endCompute (opened 0x340BC6D9)) = some (0xCBF43926, 0x00000002) := by decide +kernel
theorem test_end_compute_keeps_first_code :
    outputsOf (exec .endCompute { State.reset with err := true, errcode := 2 }) = some (0x00000000, 0x00000210) := by
  decide +kernel
theorem test_end_verify_match :
    outputsOf (exec (.endVerify 0xE8B7BE43) (opened 0x174841BC)) = some (0xE8B7BE43, 0x0000000E) := by decide +kernel
theorem test_end_verify_mismatch :
    outputsOf (exec (.endVerify 0x352441C3) (opened 0xCADBBE3D)) = some (0x352441C2, 0x00000006) := by decide +kernel
theorem test_stray_end_verify_after_job :
    outputsOf (exec (.endVerify 0xFFFFFFFF) { State.reset with result := 0xFFFFFFFF, done := true, vkind := true }) =
      some (0xFFFFFFFF, 0x00000316) := by decide +kernel
theorem test_illegal_beat : outputsOf (acceptBeat 0xFF12345678 State.reset) = some (0x00000000, 0x00000110) := by decide +kernel
theorem test_reserved_before_no_job :
    outputsOf (acceptBeat 0x0200000100 State.reset) = some (0x00000000, 0x00000210) := by decide +kernel
theorem test_reserved_start_aborts :
    (nextOf (acceptBeat 0x0100000001 (opened 0x174841BC))).map (fun s => (s.phase, s.crc)) = some (.idle, 0x174841BC) := by
  decide +kernel
theorem test_step_runs_placed_word :
    outputsOf (step (State.reset.withFetchWord 40 0x0100000000)) = some (0x00000000, 0x00000001) := by decide +kernel
theorem test_reset_wins_over_beat :
    outputsOf (takeEdge { rst := true, cmdValid := true, cmd := 0x0100000000 } (opened 0)) = some (0, 0) := by decide +kernel

/-! ### The assembler (30_encoding.md R68 to R70): "DATA '1'", "CRC [ ]", "VERIFY [0xFF], 0" and a comment -/

theorem test_asm_data_char : Asm.assembleLine (['D', 'A', 'T', 'A', ' '] ++ [Char.ofNat 39, '1', Char.ofNat 39]) =
    some [0x0200000031] := by decide +kernel
theorem test_asm_crc_empty : Asm.assembleLine ['C', 'R', 'C', ' ', '[', ' ', ']', ';', 'x'] =
    some [0x0100000000, 0x0300000000] := by decide +kernel
theorem test_asm_verify : Asm.assembleLine
    ['V', 'E', 'R', 'I', 'F', 'Y', ' ', '[', '0', 'x', 'F', 'F', ']', ',', ' ', '0'] =
    some [0x0100000000, 0x02000000FF, 0x0400000000] := by decide +kernel
theorem test_asm_string_escapes : Asm.lexLine [Char.ofNat 34, 'a', Char.ofNat 92, 'x', '4', '1', Char.ofNat 92, Char.ofNat 34,
    Char.ofNat 34] = some [.str [0x61, 0x41, 0x22]] := by decide +kernel
theorem test_asm_out_of_range : Asm.assembleLine ['D', 'A', 'T', 'A', ' ', '2', '5', '6'] = none := by decide +kernel

/-! ### Witnesses: something meets the hypotheses of every statement that has some -/

/-- BitStepShiftsRight: both clauses. -/
theorem witness_bit_step : (1 : Word).getLsbD 0 = true ∧ (2 : Word).getLsbD 0 = false := by decide +kernel

/-- ReflectedConstantsAreReversed: the range's two ends. -/
theorem witness_reflected_range : (0 : Nat) < 32 ∧ (31 : Nat) < 32 := by decide

/-- VerifyAcceptsExactlyTheCrc, VerifyJobGivesCrcAndComparison: an expected value that is the CRC and one that is not. -/
theorem witness_expected : crc32 [] = 0x00000000 ∧ (0x00000001 : Word) ≠ crc32 [] := by decide +kernel

/-- OffByOneNeverMatches: a CRC of all ones. -/
theorem witness_crc_all_ones : crc32 [0xFF, 0xFF, 0xFF, 0xFF] = 0xFFFFFFFF := by decide +kernel

/-- SingleBitFlipChangesCrc: the last bit of the last byte. -/
theorem witness_bit_flip : 1 < ([0x00, 0x61] : List Byte).length ∧ (7 : Nat) < 8 := by decide

/-- CrcIsAffine: two sequences of one length. -/
theorem witness_equal_lengths : ([0x61, 0x00] : List Byte).length = ([0x41, 0xFF] : List Byte).length := rfl

/-- DecodeOfEncode and EncodeOfDecode: a well-formed command and a beat that decodes. -/
theorem witness_decodes : (Instr.endVerify 0xFFFFFFFF).wf = true ∧ decode 0x04FFFFFFFF = .ok (.endVerify 0xFFFFFFFF) := by
  decide +kernel

/-- ResetEdgeGivesResetState and BeatsBeforeResetAreRefused: a state no reset has reached, and a reset edge. -/
theorem witness_before_reset :
    ({ State.reset with resetDone := false } : State).resetDone = false
    ∧ ({ rst := true, cmdValid := true, cmd := 0 } : Pins).rst = true := by decide

/-- An open job in which a beat is offered next. -/
def queued (beat : Beat) : State := { opened 0xFFFFFFFF with inputs := [offerEvent beat, .powerOff] }

theorem opened_inv (c : Word) : (opened c).Inv := by simp [opened, State.reset, State.Inv]

/-- StepKeepsInvariants: a state with an open job that meets them, and whose step goes on. -/
theorem witness_step_keeps_invariants :
    (queued 0x0200000031).Safe ∧ (nextOf (step (queued 0x0200000031))).map (·.crc) = some 0x7C231048 :=
  ⟨fun _ => by simp [queued, opened, State.reset, State.Inv], by decide +kernel⟩

/-- StepRunsTheDecodedCommand: a beat that decodes and one that does not, each offered next. -/
theorem witness_step_decodes :
    (queued 0x0300000000).resetDone = true
    ∧ (queued 0x0300000000).inputs = offerEvent 0x0300000000 :: [.powerOff] ∧ decode 0x0300000000 = .ok .endCompute
    ∧ (queued 0x0300000001).inputs = offerEvent 0x0300000001 :: [.powerOff] ∧ decode 0x0300000001 = .error .reservedArg := by
  decide +kernel

/-- IdleEdgesChangeNothing: an idle edge queued, and no event queued. -/
theorem witness_idle_edge :
    ({ State.reset with inputs := [.edge { rst := false, cmdValid := false, cmd := 7 }] } : State).inputs =
      .edge { rst := false, cmdValid := false, cmd := 7 } :: [] ∧ State.reset.inputs = [] := by decide

/-- StepsRunOfferedBeatsInOrder: two beats queued before another event. -/
theorem witness_queue :
    ({ State.reset with inputs := [offerEvent 1, offerEvent 2, .powerOff] } : State).inputs =
      [1, 2].map offerEvent ++ [.powerOff] ∧ State.reset.resetDone = true := by decide

/-- DataFeedsOneByte, EndComputePublishesTheCrc, EndVerifyPublishesAndCompares: an open job with a clear error pair, one whose CRC is the
expected value and one whose is not, and a closed one. -/
theorem witness_phases :
    (opened 0x174841BC).phase = .active ∧ (opened 0x174841BC).err = false ∧ (opened 0x174841BC).errcode = 0
    ∧ (opened 0x174841BC).crc ^^^ 0xFFFFFFFF = 0xE8B7BE43 ∧ (opened 0x174841BC).crc ^^^ 0xFFFFFFFF ≠ 0xE8B7BE42
    ∧ State.reset.phase = .idle := by decide +kernel

/-- DataFeedsOneByte, StartOpensAJob, EndComputePublishesTheCrc: the lowest and the highest must-be-zero bit. -/
theorem witness_reserved_bits :
    (0x00000100 : Word).extractLsb 31 8 ≠ 0#24 ∧ (0x80000000 : Word).extractLsb 31 8 ≠ 0#24 ∧ (0x00000001 : Word) ≠ 0 := by
  decide +kernel

/-- CommandFrames: each command gives a next state, in either phase. -/
theorem witness_frames :
    [Instr.start, .data 1, .endCompute, .endVerify 2].all (fun i =>
      (nextOf (exec i State.reset)).isSome && (nextOf (exec i (opened 3))).isSome) = true := by decide +kernel

/-- CommandErrorEffect, CommandsWithoutJobRaiseNoJob: a clear and a set ERR with no job open, and a command that needs one. -/
theorem witness_error_pair :
    State.reset.err = false ∧ ({ State.reset with err := true, errcode := 1 } : State).err = true
    ∧ State.reset.phase = .idle ∧ Instr.endCompute ≠ .start := by decide

/-- MalformedBeatsRaiseTheirCode: the illegal opcodes next to the assigned ones, and each form's must-be-zero bits. -/
theorem witness_malformed :
    (∀ n : Byte, n = 1 ∨ n = 2 ∨ n = 3 ∨ n = 4 → (0x0000000000 : Beat).extractLsb 39 32 ≠ n)
    ∧ (∀ n : Byte, n = 1 ∨ n = 2 ∨ n = 3 ∨ n = 4 → (0x0500000000 : Beat).extractLsb 39 32 ≠ n)
    ∧ (0x0300000001 : Beat).extractLsb 39 32 = 3#8 ∧ (0x0300000001 : Beat).extractLsb 31 0 ≠ 0#32
    ∧ (0x0200000100 : Beat).extractLsb 39 32 = 2#8 ∧ (0x0200000100 : Beat).extractLsb 31 8 ≠ 0#24 := by decide +kernel

/-- ErrorIsStickyUntilStartOrReset: with ERR set, a START beat clears it and a DATA beat does not. -/
theorem witness_sticky :
    (nextOf (takeEvent (offerEvent 0x0100000000) { State.reset with err := true, errcode := 2 })).map (·.err) = some false
    ∧ (nextOf (takeEvent (offerEvent 0x0200000000) { State.reset with err := true, errcode := 2 })).map (·.err) = some true := by
  decide +kernel

/-- ResultWrittenOnlyByEndOfJob: an END_COMPUTE beat that changes RESULT. -/
theorem witness_result_written :
    (nextOf (takeEvent (offerEvent 0x0300000000) (opened 0x174841BC))).map (·.result) = some 0xE8B7BE43
    ∧ (opened 0x174841BC).result ≠ 0xE8B7BE43 := by decide +kernel

/-- AbortedJobNeverCompletes: beats after the error, none of them START, that all run. -/
theorem witness_aborted :
    (∀ b ∈ [0x0300000000, 0x0000000000], decode b ≠ .ok .start)
    ∧ (nextOf (runBeats [0x0300000000, 0x0000000000] (raiseCmdError .reservedArg (opened 0x174841BC)))).isSome = true := by
  refine ⟨?_, by decide +kernel⟩
  intro b hb
  rcases List.mem_pair.mp hb with rfl | rfl <;> decide +kernel

/-- A recorder and a state of one open job, of the one byte "a". -/
def recorded : Recorder := { Recorder.init with job := some [0x61] }

theorem recorded_matches : recorded.Matches (opened 0x174841BC) := by
  refine ⟨rfl, ?_, rfl, by simp [recorded, Recorder.init], by simp [opened, State.reset], rfl, rfl, rfl⟩
  intro d h
  cases h
  decide +kernel

/-- EveryBeatFollowsTheRecorder: an open job and a beat that goes on. -/
theorem witness_recorder :
    recorded.Matches (opened 0x174841BC) ∧ (nextOf (acceptBeat 0x04E8B7BE43 (opened 0x174841BC))).isSome = true :=
  ⟨recorded_matches, by decide +kernel⟩

/-- The same job, verified. -/
def verified : State := { State.reset with crc := 0x174841BC, result := 0xE8B7BE43, done := true, vkind := true, matched := true }

/-- ValidOutputsAreTheCompletedJobs: a completed, matching verification. -/
theorem witness_valid_outputs :
    Recorder.Matches { Recorder.init with finished := some ⟨[0x61], some 0xE8B7BE43⟩, published := some [0x61] } verified
    ∧ verified.resultValid = true ∧ verified.matchValid = true ∧ verified.trusted = true ∧ verified.matched = true := by
  refine ⟨⟨rfl, by simp [Recorder.init], rfl, ?_, by simp, ?_, rfl, rfl⟩, by decide⟩
  · intro f h
    cases h
    exact ⟨rfl, rfl, by decide +kernel⟩
  · decide +kernel

/-- A block that is busy for two more cycles. -/
def busyBlock : Clocked := { arch := opened 0, shown := State.reset, wait := 2 }

/-- ClockedEdgeKeepsPortInvariant, ClockedPortRefinesBeats, OfferedBeatIsAcceptedInTime: a busy block and a ready one that keep the port's
promises, with paces enough. -/
theorem witness_port_invariant :
    busyBlock.Inv 3 ∧ Clocked.reset.Inv 3 ∧ busyBlock.arch.resetDone = true ∧ 0 < 3
    ∧ 3 < (List.replicate 4 (⟨9, true⟩ : Pace)).length :=
  ⟨⟨by decide, by decide⟩, ⟨by decide, fun _ => rfl⟩, rfl, by decide, by decide⟩

/-- ClockedPortAcceptsOnReadyValid: under reset, not ready, not offered and accepted, each with a next block. -/
theorem witness_port_edges :
    (nextOf (busyBlock.edge 3 ⟨1, false⟩ { rst := true, cmdValid := true, cmd := 0x0100000000 })).isSome = true
    ∧ (nextOf (busyBlock.edge 3 ⟨1, false⟩ { rst := false, cmdValid := true, cmd := 0x0100000000 })).isSome = true
    ∧ (nextOf (Clocked.reset.edge 3 ⟨1, false⟩ { rst := false, cmdValid := false, cmd := 0 })).isSome = true
    ∧ (nextOf (Clocked.reset.edge 3 ⟨1, false⟩ { rst := false, cmdValid := true, cmd := 0x0100000000 })).isSome = true
    ∧ busyBlock.cmdReady false = false ∧ Clocked.reset.cmdReady false = true := by decide +kernel

/-- ClockedPortRefinesBeats: a host that gets rid of one of two beats. -/
theorem witness_drive :
    (nextOf (Clocked.reset.drive 3 [⟨9, false⟩, ⟨0, false⟩] [0x0100000000, 0x0200000031])).map (·.1) = some [0x0200000031] := by
  decide +kernel

/-- A ready block with an open job. -/
def openBlock : Clocked := { arch := opened 0x174841BC, shown := opened 0x174841BC, wait := 0 }

/-- EitherSignShowsTheOutcome: an END_COMPUTE beat at a ready block with an open job, seen by each of the two signs: ready again after the
busy window, and early writes inside it. -/
theorem witness_signs :
    openBlock.arch.resetDone = true ∧ openBlock.wait = 0 ∧ openBlock.shown = openBlock.arch ∧ openBlock.arch.phase = .active
    ∧ decode 0x0300000000 = .ok .endCompute
    ∧ (nextOf (openBlock.drive 3 [⟨1, false⟩, ⟨0, false⟩] [0x0300000000])).map
        (fun p => (p.1, p.2.cmdReady false)) = some ([], true)
    ∧ (nextOf (openBlock.drive 3 [⟨2, true⟩] [0x0300000000])).map
        (fun p => (p.1, p.2.cmdReady false, p.2.statusPin)) = some ([], false, 0x00000002) := by decide +kernel

/-- JobCompletesWithinLinearTime: a ready block, and paces enough for a job of no bytes and of one. -/
theorem witness_job_time :
    Clocked.reset.wait = 0 ∧ (([] : List Byte).length + 2) * 2 ≤ (List.replicate 6 (⟨1, false⟩ : Pace)).length
    ∧ (([0x61] : List Byte).length + 2) * 2 ≤ (List.replicate 6 (⟨1, false⟩ : Pace)).length := by decide

/-- InstancesAreIndependent: an event for the first of two instances. -/
theorem witness_platform :
    (nextOf (Platform.deliver 0 (offerEvent 0x0100000000) [State.reset, State.reset])).isSome = true ∧ (1 : Nat) ≠ 0 := by
  decide +kernel

/-- AssembledCrcLineComputes, AssemblerEmitsTheListedBeats: the ends of the operand ranges, and lists within and beyond them. -/
theorem witness_asm_ranges :
    (∀ n ∈ [0, 255], n < 256) ∧ (∃ n ∈ [0, 256], 256 ≤ n) ∧ 0xFFFFFFFF < 2 ^ 32 ∧ 2 ^ 32 ≤ 0x100000000
    ∧ 0xFFFFFFFFFF < 2 ^ 40 ∧ 2 ^ 40 ≤ 0x10000000000 := by decide

end Sys2Proof.Tests
end

section
/-! PROOFS. The outputs and the reset (10_state.md R31 to R33 and R37; 70_reset_and_hazards.md R171). -/

namespace Sys2Proof.Machine

/-! ### The bits of STATUS -/

theorem flagWord_getLsbD (b : Bool) (i : Nat) : (flagWord b).getLsbD i = (decide (i = 0) && b) := by
  cases b <;> simp [flagWord, BitVec.getLsbD_one]

/-- A flag shifted to its place in STATUS holds nothing but the flag, at that place. -/
theorem flagWord_shiftLeft_getLsbD (b : Bool) {n : Nat} (hn : n < 32) (i : Nat) :
    (flagWord b <<< n).getLsbD i = (decide (i = n) && b) := by
  rw [BitVec.getLsbD_shiftLeft, flagWord_getLsbD]
  rcases Nat.lt_trichotomy i n with h | rfl | h
  · simp [h, h.ne]
  · simp [hn]
  · simp [h.ne', show i - n ≠ 0 by omega]

/-- The error code in its place in STATUS: bits 8 and up, as far as its four bits reach. -/
theorem errcode_shiftLeft_getLsbD (e : BitVec 4) (i : Nat) :
    (e.setWidth 32 <<< 8).getLsbD i = (decide (8 ≤ i) && e.getLsbD (i - 8)) := by
  rw [BitVec.getLsbD_shiftLeft, BitVec.getLsbD_setWidth]
  by_cases h : i < 12
  · simp [show i < 32 by omega, show i - 8 < 32 by omega, ← decide_not]
  · simp [BitVec.getLsbD_of_ge e (i - 8) (by omega)]

/-- The layout of STATUS in one equation (R31); past bit 11 the error code has no bits, so the rest reads 0 (R32). -/
theorem statusOut_getLsbD (s : State) (i : Nat) :
    s.statusOut.getLsbD i =
      (decide (8 ≤ i) && s.errcode.getLsbD (i - 8) || decide (i = 4) && s.err || decide (i = 3) && s.matched
        || decide (i = 2) && s.vkind || decide (i = 1) && s.done || decide (i = 0) && s.phase.isActive) := by
  simp only [State.statusOut, BitVec.getLsbD_or, errcode_shiftLeft_getLsbD, flagWord_getLsbD,
    flagWord_shiftLeft_getLsbD _ (show 4 < 32 by decide), flagWord_shiftLeft_getLsbD _ (show 3 < 32 by decide),
    flagWord_shiftLeft_getLsbD _ (show 2 < 32 by decide), flagWord_shiftLeft_getLsbD _ (show 1 < 32 by decide)]

/-- Above the five flags STATUS holds the error code alone. -/
theorem statusOut_getLsbD_of_ge (s : State) {i : Nat} (h : 5 ≤ i) :
    s.statusOut.getLsbD i = (decide (8 ≤ i) && s.errcode.getLsbD (i - 8)) := by
  rw [statusOut_getLsbD]
  simp [show i ≠ 4 by omega, show i ≠ 3 by omega, show i ≠ 2 by omega, show i ≠ 1 by omega, show i ≠ 0 by omega]

theorem statusOut_errcode_field (s : State) : s.statusOut.extractLsb 11 8 = s.errcode := by
  apply BitVec.eq_of_getLsbD_eq
  intro i hi
  rw [BitVec.getLsbD_extractLsb, statusOut_getLsbD_of_ge s (by omega)]
  simp [show i < 4 by omega]

theorem statusOut_reserved_7_5 (s : State) : s.statusOut.extractLsb 7 5 = 0#3 := by
  apply BitVec.eq_of_getLsbD_eq
  intro i hi
  rw [BitVec.getLsbD_extractLsb, statusOut_getLsbD_of_ge s (by omega)]
  simp [show ¬ 8 ≤ 5 + i by omega]

theorem statusOut_reserved_31_12 (s : State) : s.statusOut.extractLsb 31 12 = 0#20 := by
  apply BitVec.eq_of_getLsbD_eq
  intro i hi
  rw [BitVec.getLsbD_extractLsb, statusOut_getLsbD_of_ge s (by omega), BitVec.getLsbD_of_ge s.errcode _ (by omega)]
  simp

/-- Settles O19, each flag and each field read off the one equation for STATUS's bits. -/
theorem statusLayout : Obligations.StatusLayout := by
  intro s
  have bit := statusOut_getLsbD s
  exact ⟨by simpa using bit 0, by simpa using bit 1, by simpa using bit 2, by simpa using bit 3, by simpa using bit 4,
    statusOut_errcode_field s, statusOut_reserved_7_5 s, statusOut_reserved_31_12 s⟩

/-! ### RESULT -/

@[simp] theorem resultOut_eq (s : State) : s.resultOut = s.result := rfl

/-- Settles O20: the output is the register, so each of its bits is the register's. -/
theorem resultOutputIsResultRegister : Obligations.ResultOutputIsResultRegister := by
  intro s i
  rw [resultOut_eq]

/-! ### A reset edge -/

/-- A reset wins over whatever else the pins hold (70_reset_and_hazards.md R170, R172). -/
theorem takeEdge_of_rst {pins : Pins} (h : pins.rst = true) (s : State) : takeEdge pins s = .next (applyReset s) := by
  simp [takeEdge, h]

/-- The values R37 lists: the record's, and what the two outputs show. -/
def State.HoldsResetValues (t : State) : Prop :=
  t.phase = .idle ∧ t.crc = 0xFFFFFFFF#32 ∧ t.result = 0x00000000#32 ∧ t.done = false ∧ t.vkind = false
    ∧ t.matched = false ∧ t.err = false ∧ t.errcode = 0#4 ∧ t.statusOut = 0x00000000#32 ∧ t.resultOut = 0x00000000#32

theorem reset_statusOut : State.reset.statusOut = 0x00000000#32 := by decide

@[simp] theorem applyReset_statusOut (s : State) : (applyReset s).statusOut = State.reset.statusOut := rfl

theorem reset_holdsResetValues : State.reset.HoldsResetValues :=
  ⟨rfl, rfl, rfl, rfl, rfl, rfl, rfl, rfl, reset_statusOut, rfl⟩

/-- A reset differs from the reset state in the events still queued alone, which no value of R37 depends on. -/
theorem applyReset_holdsResetValues (s : State) : (applyReset s).HoldsResetValues := by
  simpa [State.HoldsResetValues] using reset_holdsResetValues

/-- Settles O21: a reset edge answers the applied reset, which holds the reset state's values. -/
theorem resetEdgeGivesResetState : Obligations.ResetEdgeGivesResetState :=
  ⟨fun _ s h => ⟨applyReset s, takeEdge_of_rst h s, applyReset_holdsResetValues s⟩, reset_holdsResetValues⟩

end Sys2Proof.Machine
end

section
/-! PROOFS. The edges of the clocked port and what its outputs show (20_memory.md R46 to R48; 70_reset_and_hazards.md R170 to R172). -/

namespace Sys2Proof.Machine

/-- Everything a rising edge of `clk` can do when it answers a next block: a reset, an accepted beat, a ready edge with no beat, or a
busy cycle. -/
theorem edge_cases {latency : Nat} {pace : Pace} {pins : Pins} {t u : Clocked} (h : t.edge latency pace pins = .next u) :
    (pins.rst = true ∧ u = t.resetEdge latency pace)
    ∨ (pins.rst = false ∧ t.wait = 0 ∧ pins.cmdValid = true
        ∧ ∃ s, offerBeat pins.cmd t.arch = .next s ∧ u = t.afterBeat latency pace s)
    ∨ (pins.rst = false ∧ t.wait = 0 ∧ pins.cmdValid = false ∧ u = t)
    ∨ (pins.rst = false ∧ t.wait ≠ 0 ∧ u = t.busyEdge pace) := by
  unfold Clocked.edge at h
  cases hr : pins.rst with
  | true => exact .inl ⟨rfl, by simpa [hr] using h.symm⟩
  | false =>
    by_cases hw : t.wait = 0
    · cases hv : pins.cmdValid with
      | true =>
        obtain ⟨s, hs, hu⟩ := andThen_eq_next (by simpa [hr, hw, hv] using h)
        exact .inr (.inl ⟨rfl, hw, rfl, s, hs, by simpa using hu.symm⟩)
      | false => exact .inr (.inr (.inl ⟨rfl, hw, rfl, by simpa [hr, hw, hv] using h.symm⟩))
    · exact .inr (.inr (.inr ⟨rfl, hw, by simpa [hr, hw] using h.symm⟩))

/-! ### The shown state: kept, or caught up with the block's own -/

theorem resetEdge_shown (latency : Nat) (pace : Pace) (t : Clocked) :
    (t.resetEdge latency pace).shown = (t.resetEdge latency pace).arch := rfl

theorem afterBeat_shown_cases (latency : Nat) (pace : Pace) (t : Clocked) (s : State) :
    (t.afterBeat latency pace s).shown = t.shown
    ∨ (t.afterBeat latency pace s).shown = (t.afterBeat latency pace s).arch := by
  unfold Clocked.afterBeat
  split
  · exact .inr rfl
  · exact .inl rfl

theorem busyEdge_shown_cases (pace : Pace) (t : Clocked) :
    (t.busyEdge pace).shown = t.shown ∨ (t.busyEdge pace).shown = (t.busyEdge pace).arch := by
  unfold Clocked.busyEdge
  split
  · exact .inr rfl
  · exact .inl rfl

/-- What the outputs are read from changes as a whole (R48): no edge mixes the state shown before with the block's own. -/
theorem edge_shown_cases {latency : Nat} {pace : Pace} {pins : Pins} {t u : Clocked} (h : t.edge latency pace pins = .next u) :
    u.shown = t.shown ∨ u.shown = u.arch := by
  obtain ⟨-, rfl⟩ | ⟨-, -, -, s, -, rfl⟩ | ⟨-, -, -, rfl⟩ | ⟨-, -, rfl⟩ := edge_cases h
  · exact .inr (resetEdge_shown latency pace t)
  · exact afterBeat_shown_cases latency pace t s
  · exact .inl rfl
  · exact busyEdge_shown_cases pace t

/-- Settles O50: both outputs are read from the one shown state, which an edge keeps or replaces as a whole. -/
theorem outputsChangeTogether : Obligations.OutputsChangeTogether := by
  intro latency pace pins t u h
  exact (edge_shown_cases h).imp
    (fun kept => ⟨congrArg State.resultOut kept, congrArg State.statusOut kept⟩)
    (fun caught => ⟨congrArg State.resultOut caught, congrArg State.statusOut caught⟩)

end Sys2Proof.Machine
end

section
/-! PROOFS. The worked encodings and the errors that decoding finds (30_encoding.md R62 to R66 and R70; 60_exceptions.md R143). -/

namespace Sys2Proof.Machine

/-! ### The must-be-zero bits of form B, bit by bit -/

/-- Form B asks for zeros above the byte (30_encoding.md R62). -/
theorem reservedClear_byte_iff_high (arg : Word) : Form.b.reservedClear arg = true ↔ arg.extractLsb 31 8 = 0#24 := by
  rw [reservedClear_byte_iff]
  constructor <;> intro h <;> apply BitVec.eq_of_getLsbD_eq <;> intro i hi
  · rw [← h]
    simp [zext32, byteOperand]
  · by_cases h8 : i < 8
    · simp [zext32, byteOperand, h8, hi]
    · have bit : arg.getLsbD i = false := by
        simpa [show 8 + (i - 8) = i by omega, show i - 8 < 24 by omega] using congrArg (fun v => v.getLsbD (i - 8)) h
      simp [zext32, byteOperand, h8, bit]

theorem argField_extractLsb_31_8 (beat : Beat) : (argField beat).extractLsb 31 8 = beat.extractLsb 31 8 := by
  apply BitVec.eq_of_getLsbD_eq
  intro i hi
  simp [argField, show 8 + i < 32 by omega]

/-! ### What decoding answers -/

/-- Decoding inverts encoding: a command's beat carries its opcode and its argument, whose must-be-zero bits are clear. -/
theorem decode_encode (i : Instr) : decode (encode i) = .ok i := by
  cases i with
  | start => simp [decode, encode, opcode, argument]
  | data b =>
    have clear : Form.b.reservedClear (zext32 b) = true := (reservedClear_byte_iff _).mpr (by rw [byteOperand_zext32])
    simp [decode, encode, opcode, argument, clear]
  | endCompute => simp [decode, encode, opcode, argument]
  | endVerify e => simp [decode, encode, opcode, argument, wordOperand]

theorem decode_of_encode_eq {i : Instr} {beat : Beat} (h : encode i = beat) : decode beat = .ok i := by
  rw [← h, decode_encode]

theorem decode_eq_illegalOp_iff (beat : Beat) :
    decode beat = .error .illegalOp ↔ formOf (opField beat) = none := by
  obtain ⟨h, hop, -⟩ | ⟨h, hop, -⟩ | ⟨h, hop, -⟩ | ⟨h, hop⟩ | ⟨h, ha, -⟩ | ⟨h, ha⟩ := decode_cases beat
  · simp [h, hop, formOf]
  · simp [h, hop, formOf]
  · simp [h, hop, formOf]
  · simp [h, hop, formOf]
  · rw [beatOpAssigned, Option.isSome_iff_ne_none] at ha
    simp [h, ha]
  · rw [beatOpAssigned, Option.isSome_eq_false_iff, Option.isNone_iff_eq_none] at ha
    simp [h, ha]

theorem decode_eq_reservedArg_iff (beat : Beat) :
    decode beat = .error .reservedArg
      ↔ ∃ f, formOf (opField beat) = some f ∧ f.reservedClear (argField beat) = false := by
  obtain ⟨h, hop, harg⟩ | ⟨h, hop, hb⟩ | ⟨h, hop, harg⟩ | ⟨h, hop⟩ | ⟨h, ha, hr⟩ | ⟨h, ha⟩ := decode_cases beat
  · simp [h, hop, harg, formOf]
  · simp [h, hop, hb, formOf]
  · simp [h, hop, harg, formOf]
  · simp [h, hop, formOf]
  · obtain ⟨f, hf⟩ := Option.isSome_iff_exists.mp ha
    simpa [h, hf, beatReservedClear] using hr
  · rw [beatOpAssigned, Option.isSome_eq_false_iff, Option.isNone_iff_eq_none] at ha
    simp [h, ha]

/-! ### The worked encodings -/

/-- Settles O14: the worked words are encodings, which decoding inverts; the three others fail the opcode check or a must-be-zero bit. -/
theorem workedWordsDecode : Obligations.WorkedWordsDecode :=
  ⟨decode_of_encode_eq (by decide), decode_of_encode_eq (by decide), decode_of_encode_eq (by decide),
    decode_of_encode_eq (by decide), decode_of_encode_eq (by decide),
    by decide, by decide,
    (decode_eq_illegalOp_iff _).mpr (by decide), (decode_eq_illegalOp_iff _).mpr (by decide),
    (decode_eq_reservedArg_iff _).mpr ⟨.b, by decide, by decide⟩⟩

/-! ### What a beat that spells no command does -/

/-- An opcode other than the four assigned ones has no operand form (30_encoding.md R65). -/
theorem formOf_eq_none {op : Byte} (h : ∀ n : Byte, n = 1 ∨ n = 2 ∨ n = 3 ∨ n = 4 → op ≠ n) : formOf op = none := by
  rw [formOf, if_neg (h 1 (by simp)), if_neg (h 2 (by simp)), if_neg (h 3 (by simp)), if_neg (h 4 (by simp))]

/-- A must-be-zero bit that is 1, in the beat's own bits (30_encoding.md R62, R66): any ARG bit in form Z, one above the byte in form B. -/
theorem decode_of_set_mustBeZero {beat : Beat}
    (h : ((beat.extractLsb 39 32 = 1#8 ∨ beat.extractLsb 39 32 = 3#8) ∧ beat.extractLsb 31 0 ≠ 0#32)
      ∨ (beat.extractLsb 39 32 = 2#8 ∧ beat.extractLsb 31 8 ≠ 0#24)) :
    decode beat = .error .reservedArg := by
  rw [decode_eq_reservedArg_iff]
  obtain ⟨hop, harg⟩ | ⟨hop, hhigh⟩ := h
  · have form : formOf (opField beat) = some .z := by
      obtain hop | hop := hop <;> rw [show opField beat = _ from hop] <;> rfl
    exact ⟨.z, form, Bool.eq_false_of_not_eq_true (mt (reservedClear_none_iff _).mp harg)⟩
  · have form : formOf (opField beat) = some .b := by
      rw [show opField beat = _ from hop]; rfl
    rw [← argField_extractLsb_31_8] at hhigh
    exact ⟨.b, form, Bool.eq_false_of_not_eq_true (mt (reservedClear_byte_iff_high _).mp hhigh)⟩

theorem raiseCmdError_of_err_clear (k : CmdError) {s : State} (h : s.err = false) :
    raiseCmdError k s = { s with err := true, errcode := k.code, phase := .idle } := by
  simp [raiseCmdError, latchError, h]

theorem raiseCmdError_of_err_set (k : CmdError) {s : State} (h : s.err = true) :
    raiseCmdError k s = { s with phase := .idle } := by
  simp [raiseCmdError, latchError, h]

/-- A beat that decoding rejects has the effect of its command error and no other (60_exceptions.md R143), before any phase check. -/
theorem acceptBeat_of_decode_error {beat : Beat} {k : CmdError} (h : decode beat = .error k) (s : State) :
    (s.err = false → acceptBeat beat s = .next { s with err := true, errcode := k.code, phase := .idle })
    ∧ (s.err = true → acceptBeat beat s = .next { s with phase := .idle }) := by
  have raised : acceptBeat beat s = .next (raiseCmdError k s) := by simp [acceptBeat, h]
  exact ⟨fun clear => by rw [raised, raiseCmdError_of_err_clear k clear],
    fun set => by rw [raised, raiseCmdError_of_err_set k set]⟩

/-- The 256 opcode values less the four assigned ones (30_encoding.md R65). -/
theorem illegalOp_count :
    ((List.range 256).filter fun n => decode (mkBeat (BitVec.ofNat 8 n) 0) == .error .illegalOp).length = 252 := by
  have illegal (n : Nat) :
      (decode (mkBeat (BitVec.ofNat 8 n) 0) == .error .illegalOp) = (formOf (BitVec.ofNat 8 n)).isNone := by
    rw [Bool.eq_iff_iff, beq_iff_eq, decode_eq_illegalOp_iff, opField_mkBeat, Option.isNone_iff_eq_none]
  simp only [illegal]
  decide +kernel

/-- Settles O35: such a beat decodes to its error whatever the state, and then the error rule alone applies. -/
theorem malformedBeatsRaiseTheirCode : Obligations.MalformedBeatsRaiseTheirCode :=
  ⟨fun beat s =>
    ⟨fun unassigned => acceptBeat_of_decode_error ((decode_eq_illegalOp_iff beat).mpr (formOf_eq_none unassigned)) s,
      fun set => acceptBeat_of_decode_error (decode_of_set_mustBeZero set) s⟩,
    illegalOp_count⟩

end Sys2Proof.Machine
end

section
/-! PROOFS. What the byte update and the fold over a sequence do: the byte split off the register, linearity over exclusive OR, and nothing
lost (40_crc_function.md R86, R87, R91, R100 to R102). -/

namespace Sys2Proof.Machine

/-! ### Bit steps that only shift -/

theorem stepBit_of_low_set {c : Word} (h : c.getLsbD 0 = true) : stepBit c = (c >>> 1) ^^^ Config.rpoly := by
  rw [stepBit, if_pos h]

theorem stepBit_of_low_clear {c : Word} (h : c.getLsbD 0 = false) : stepBit c = c >>> 1 := by
  rw [stepBit, if_neg (ne_true_of_eq_false h)]

/-- The polynomial enters only on a 1 that leaves, so a register with its low n bits clear is shifted n times (R91's sketch). -/
theorem stepBit_iterate_of_low_clear (n : Nat) {c : Word} (h : ∀ i < n, c.getLsbD i = false) : stepBit^[n] c = c >>> n := by
  induction n generalizing c with
  | zero => simp
  | succ n ih =>
    have next : ∀ i < n, (c >>> 1).getLsbD i = false := fun i hi => by
      rw [BitVec.getLsbD_ushiftRight]
      exact h (1 + i) (by omega)
    rw [Function.iterate_succ_apply, stepBit_of_low_clear (h 0 n.succ_pos), ih next, ← BitVec.shiftRight_add, Nat.add_comm]

/-! ### The low byte of a register -/

theorem zext32_getLsbD (b : Byte) (i : Nat) : (zext32 b).getLsbD i = b.getLsbD i := by
  rw [zext32, BitVec.getLsbD_setWidth]
  by_cases h : i < 32
  · simp [h]
  · simp [BitVec.getLsbD_of_ge b i (by omega)]

theorem zext32_shiftRight_eight (b : Byte) : zext32 b >>> 8 = 0 := by
  apply BitVec.eq_of_getLsbD_eq
  intro i _
  simp [zext32_getLsbD]

/-- The low byte taken out by an exclusive OR leaves the low eight bits clear. -/
theorem xor_low_byte_clear (t : Word) : ∀ i < 8, (t ^^^ zext32 (byteOperand t)).getLsbD i = false := by
  intro i h
  simp [zext32_getLsbD, byteOperand, h]

theorem xor_zext32_shiftRight_eight (c : Word) (b : Byte) : (c ^^^ zext32 b) >>> 8 = c >>> 8 := by
  simp [BitVec.ushiftRight_xor_distrib, zext32_shiftRight_eight]

/-- A byte equal to the register's low byte cancels it, and the rest moves down. -/
theorem upd_low_byte (c : Word) : upd c (byteOperand c) = c >>> 8 := by
  rw [upd, stepBit_iterate_of_low_clear 8 (xor_low_byte_clear c), xor_zext32_shiftRight_eight]

/-- Eight bit steps are the shift and the low byte's table entry (R89, R90). -/
theorem stepBit_iterate_eight (t : Word) : stepBit^[8] t = (t >>> 8) ^^^ tableEntry (byteOperand t) := by
  have split : t = (t ^^^ zext32 (byteOperand t)) ^^^ (0 ^^^ zext32 (byteOperand t)) := by
    simp
  calc stepBit^[8] t
      = stepBit^[8] (t ^^^ zext32 (byteOperand t)) ^^^ stepBit^[8] (0 ^^^ zext32 (byteOperand t)) := by
        rw [← stepBit_iterate_xor, ← split]
    _ = (t >>> 8) ^^^ tableEntry (byteOperand t) := by
        rw [stepBit_iterate_of_low_clear 8 (xor_low_byte_clear t), xor_zext32_shiftRight_eight, tableEntry, upd]

/-! ### The fold over a sequence -/

/-- R87: the running register is the left fold of the byte update. -/
theorem foldl_upd (c : Word) (d : List Byte) : d.foldl upd c = runCrc c d := by
  induction d generalizing c with
  | nil => rfl
  | cons b bs ih => exact ih (upd c b)

/-- Register and bytes together enter linearly. -/
theorem runCrc_xor (c e : Word) {a b : List Byte} (h : a.length = b.length) :
    runCrc (c ^^^ e) (List.zipWith (fun x y => x ^^^ y) a b) = runCrc c a ^^^ runCrc e b := by
  induction a generalizing c e b with
  | nil =>
    rw [List.length_eq_zero_iff.mp h.symm]
    rfl
  | cons x xs ih =>
    cases b with
    | nil => simp at h
    | cons y ys =>
      have tails : xs.length = ys.length := by simpa using h
      simp only [List.zipWith_cons_cons, runCrc, upd_xor, ih _ _ tails]

theorem zipWith_xor_zeros (l : List Byte) : List.zipWith (fun x y => x ^^^ y) l (List.replicate l.length 0x00) = l := by
  induction l with
  | nil => rfl
  | cons x xs ih => simpa [List.replicate_succ] using ih

/-- What the start contributes is its own run over zeros. -/
theorem runCrc_eq_xor_zeros (c : Word) (d : List Byte) : runCrc c d = runCrc 0#32 d ^^^ runCrc c (List.replicate d.length 0x00) := by
  rw [← runCrc_xor 0#32 c (by simp), BitVec.zero_xor, zipWith_xor_zeros]

theorem runCrc_injective_register (d : List Byte) : Function.Injective (runCrc · d) := by
  induction d with
  | nil => exact Function.injective_id
  | cons b bs ih => exact ih.comp (upd_injective_register b)

theorem upd_injective_byte (c : Word) : Function.Injective (upd c) := by
  intro a b h
  have zext : zext32 a = zext32 b := (BitVec.xor_right_inj c).mp (stepBit_injective.iterate 8 h)
  simpa using congrArg byteOperand zext

theorem finalize_injective : Function.Injective finalize := Function.Involutive.injective finalize_finalize

/-- The byte in one place tells registers apart there, and the bytes after it keep the difference. -/
theorem runCrc_append_cons_injective (c : Word) (a b : List Byte) : Function.Injective fun x => runCrc c (a ++ x :: b) := by
  intro x y h
  simp only [runCrc_append, runCrc] at h
  exact upd_injective_byte _ (runCrc_injective_register b h)

/-- Sequences that differ in one byte alone have different CRCs. -/
theorem crc32_set_ne {d : List Byte} {k : Nat} (hk : k < d.length) {x : Byte} (hx : x ≠ d[k]) : crc32 (d.set k x) ≠ crc32 d := by
  have place (y : Byte) : d.set k y = d.take k ++ y :: d.drop (k + 1) := by
    rw [List.set_eq_take_append_cons_drop, if_pos hk]
  have whole : d = d.take k ++ d[k] :: d.drop (k + 1) := by rw [← place, List.set_getElem_self]
  intro same
  have registers : runCrc Config.init (d.set k x) = runCrc Config.init d := finalize_injective same
  rw [place] at registers
  conv_rhs at registers => rw [whole]
  exact hx (runCrc_append_cons_injective _ _ _ registers)

/-! ### A register followed by its own bytes -/

theorem upd_shiftRight_next_byte (c : Word) (n : Nat) : upd (c >>> n) (c.extractLsb' n 8) = c >>> (n + 8) := by
  have byte : c.extractLsb' n 8 = byteOperand (c >>> n) := by
    apply BitVec.eq_of_getLsbD_eq
    intro i _
    simp [byteOperand]
  rw [byte, upd_low_byte, BitVec.shiftRight_add]

/-- Each byte cancels the register's low byte, until nothing is left. -/
theorem runCrc_own_bytes (c : Word) : runCrc c (bytesLsbFirst c) = 0 := by
  have first : upd c (c.extractLsb' 0 8) = c >>> 8 := upd_low_byte c
  simp only [bytesLsbFirst, runCrc, first, upd_shiftRight_next_byte]
  exact BitVec.ushiftRight_eq_zero (Nat.le_refl 32)

theorem bytesLsbFirst_xor (v w : Word) :
    bytesLsbFirst (v ^^^ w) = List.zipWith (fun x y => x ^^^ y) (bytesLsbFirst v) (bytesLsbFirst w) := by
  simp [bytesLsbFirst, BitVec.extractLsb'_xor]

theorem runCrc_zero_xorOut_bytes : runCrc 0#32 (bytesLsbFirst Config.xorOut) = 0xDEBB20E3#32 := by decide +kernel

@[simp] theorem bytesLsbFirst_length (w : Word) : (bytesLsbFirst w).length = 4 := rfl

/-- What is left of a register after the bytes of its finalised value: the register's own bytes cancel, those of the final exclusive OR
stay, whatever the register. -/
theorem runCrc_finalized_bytes (c : Word) : runCrc c (bytesLsbFirst (finalize c)) = 0xDEBB20E3#32 := by
  have lengths : (bytesLsbFirst c).length = (bytesLsbFirst Config.xorOut).length := by simp
  have split := runCrc_xor c 0#32 lengths
  rwa [BitVec.xor_zero, ← bytesLsbFirst_xor, runCrc_own_bytes, runCrc_zero_xorOut_bytes, BitVec.ofNat_eq_ofNat,
    BitVec.zero_xor] at split

end Sys2Proof.Machine
end

section
/-! PROOFS. The statements about the CRC function (40_crc_function.md R81 to R102). -/

namespace Sys2Proof.Machine

/-! ### The constants, the bit step and the byte update -/

theorem reflect_getLsbD {n : Nat} (v : BitVec n) {i : Nat} (h : i < n) : (reflect v).getLsbD i = v.getLsbD (n - 1 - i) := by
  rw [reflect, BitVec.getLsbD_reverse, BitVec.getMsbD, decide_eq_true h, Bool.true_and]

theorem reflect_npoly : reflect Config.npoly = Config.rpoly := by decide +kernel

/-- Settles O1: the bits of RPOLY are read off the reflection. -/
theorem reflectedConstantsAreReversed : Obligations.ReflectedConstantsAreReversed := by
  refine ⟨reflect_npoly, rfl, rfl, fun i h => ?_, rfl, by decide +kernel⟩
  rw [← reflect_npoly, reflect_getLsbD Config.npoly h]

/-- Settles O2: the two branches of the bit step, and no bit 32 to shift into bit 31. -/
theorem bitStepShiftsRight : Obligations.BitStepShiftsRight :=
  fun c => ⟨stepBit_of_low_set, stepBit_of_low_clear, by
    rw [BitVec.getLsbD_ushiftRight]
    exact BitVec.getLsbD_of_ge c 32 (Nat.le_refl 32)⟩

/-- Settles O3: the iteration written out, and the worked value evaluated. -/
theorem byteUpdateIsEightBitSteps : Obligations.ByteUpdateIsEightBitSteps :=
  ⟨fun _ _ => rfl, by decide +kernel⟩

/-! ### The table engine -/

/-- The list of R89 against the rule that generates it, entry by entry. -/
theorem tableRom_eq_map_range : Config.tableRom = (List.range Config.tableN).map fun i => upd 0 (BitVec.ofNat 8 i) := by
  decide +kernel

/-- Settles O4: entry i of the generated list is the rule's at i. -/
theorem tableRomHoldsGeneratedEntries : Obligations.TableRomHoldsGeneratedEntries := by
  rw [Obligations.TableRomHoldsGeneratedEntries, tableRom_eq_map_range]
  refine ⟨by simp, fun i => ?_⟩
  have inRange : i.toNat < Config.tableN := i.isLt
  simp [List.getElem?_range inRange]

theorem updT_eq_upd (c : Word) (b : Byte) : updT c b = upd c b := by
  rw [upd, stepBit_iterate_eight, xor_zext32_shiftRight_eight]
  rfl

theorem byteUpdate_eq_upd (e : Config.Engine) : byteUpdate e = upd := by
  cases e with
  | bitwise => rfl
  | table => funext c b; exact updT_eq_upd c b

/-- Settles O5: the two updates are one function, so the folds over it and all that is read from them are the same. -/
theorem tableEngineEqualsBitwiseEngine : Obligations.TableEngineEqualsBitwiseEngine := by
  have fold (e : Config.Engine) (c : Word) (d : List Byte) : d.foldl (byteUpdate e) c = runCrc c d := by
    rw [byteUpdate_eq_upd, foldl_upd]
  refine ⟨updT_eq_upd, fold, fun e d x => ?_⟩
  rw [fold]
  exact ⟨rfl, rfl⟩

/-! ### compute and verify -/

/-- Settles O8, by evaluation. -/
theorem emptyInputAndCheckValue : Obligations.EmptyInputAndCheckValue := by
  unfold Obligations.EmptyInputAndCheckValue
  decide +kernel

theorem verify_eq_false_iff (d : List Byte) (e : Word) : verify d e = false ↔ crc32 d ≠ e := by
  simp [verify]

/-- Settles O9: the comparator is equality of words. -/
theorem verifyAcceptsExactlyTheCrc : Obligations.VerifyAcceptsExactlyTheCrc :=
  fun d e => ⟨beq_self_eq_true (crc32 d), fun h => (verify_eq_false_iff d e).mpr h.symm⟩

/-- The off-by-one value of R98 is the 32-bit successor. -/
theorem ofNat_succ_mod (v : Word) : BitVec.ofNat 32 ((v.toNat + 1) % 2 ^ 32) = v + 1 := by
  apply BitVec.eq_of_toNat_eq
  simp [BitVec.toNat_add]

/-- Settles O10: no word is its own successor, and the successor of all ones is 0. -/
theorem offByOneNeverMatches : Obligations.OffByOneNeverMatches := by
  intro d
  rw [ofNat_succ_mod]
  refine ⟨(verify_eq_false_iff d _).mpr fun same => ?_, fun allOnes => by rw [allOnes]; rfl⟩
  simp at same

/-- Settles O11: the flipped byte is another byte, and the CRC tells one byte from another. -/
theorem singleBitFlipChangesCrc : Obligations.SingleBitFlipChangesCrc := by
  intro d k hk j hj
  refine crc32_set_ne hk fun same => ?_
  have bit := congrArg (fun v : Byte => v.getLsbD j) same
  simp [hj] at bit

/-- The final exclusive OR survives three of itself. -/
theorem finalize_xor_xor (u v w : Word) : finalize (u ^^^ v ^^^ w) = finalize u ^^^ finalize v ^^^ finalize w := by
  have cancel : Config.xorOut = Config.xorOut ^^^ Config.xorOut ^^^ Config.xorOut := by simp
  simp only [finalize]
  conv_lhs => rw [cancel]
  ac_rfl

/-- Settles O12: two registers that start at INIT cancel to one that starts at 0, and the zeros bring INIT back. -/
theorem crcIsAffine : Obligations.CrcIsAffine := by
  intro a b h
  have cancel : runCrc 0#32 (List.zipWith (fun x y => x ^^^ y) a b) = runCrc Config.init a ^^^ runCrc Config.init b := by
    rw [← runCrc_xor _ _ h, BitVec.xor_self]
  have length : (List.zipWith (fun x y => x ^^^ y) a b).length = a.length := by simp [h]
  rw [crc32, runCrc_eq_xor_zeros, cancel, length, finalize_xor_xor]
  rfl

/-- Settles O13: the register after d is followed by the bytes of its finalised value. -/
theorem appendedCrcLeavesResidue : Obligations.AppendedCrcLeavesResidue := by
  intro d
  have register : runCrc Config.init (d ++ bytesLsbFirst (crc32 d)) = 0xDEBB20E3#32 := by
    rw [runCrc_append, crc32, runCrc_finalized_bytes]
  exact ⟨by rw [crc32, register]; rfl, register⟩

end Sys2Proof.Machine
end

section
/-! PROOFS. What each command and its beat do (41_job_commands.md R110 to R114). -/

namespace Sys2Proof.Machine

variable (s : State)

/-! ### The commands in each phase -/

theorem exec_start : exec .start s = .next (openJob s) := rfl

variable {s}

/-- Feeding a byte is the byte update of R86 whatever the engine, since the engines agree. -/
theorem exec_data_active (b : Byte) (h : s.phase = .active) : exec (.data b) s = .next { s with crc := upd s.crc b } := by
  rw [exec, execData, inJob_active h, feedByte, byteUpdate_eq_upd]

theorem exec_endCompute_active (h : s.phase = .active) : exec .endCompute s = .next (closeJob false false s) := by
  rw [exec, execEndCompute, inJob_active h]

theorem exec_endVerify_active (e : Word) (h : s.phase = .active) :
    exec (.endVerify e) s = .next (closeJob true (matchFlag (finalize s.crc) e) s) := by
  rw [exec, execEndVerify, inJob_active h]

/-- The phase check (60_exceptions.md R141): only START does without an open job. -/
theorem exec_idle {i : Instr} (hi : i ≠ .start) (h : s.phase = .idle) : exec i s = .next (raiseCmdError .noJob s) := by
  cases i with
  | start => exact absurd rfl hi
  | data b => rw [exec, execData, inJob_idle h]
  | endCompute => rw [exec, execEndCompute, inJob_idle h]
  | endVerify e => rw [exec, execEndVerify, inJob_idle h]

/-! ### The beats -/

variable (s)

@[simp] theorem acceptBeat_encode (i : Instr) : acceptBeat (encode i) s = exec i s := by
  rw [acceptBeat, decode_encode]

/-- A beat laid out with a must-be-zero bit set is turned away in every phase (30_encoding.md R66). -/
theorem acceptBeat_mkBeat_reserved {op : Byte} {arg : Word} {f : Form} (form : formOf op = some f)
    (reserved : ¬ f.reservedClear arg = true) : acceptBeat (mkBeat op arg) s = .next (raiseCmdError .reservedArg s) := by
  have rejected : decode (mkBeat op arg) = .error .reservedArg := by
    rw [decode_eq_reservedArg_iff, opField_mkBeat, argField_mkBeat]
    exact ⟨f, form, Bool.eq_false_of_not_eq_true reserved⟩
  rw [acceptBeat, rejected]

/-! ### What the flags are after a START and after an end of job -/

@[simp] theorem flagWord_true : flagWord true = 1 := rfl
@[simp] theorem flagWord_false : flagWord false = 0 := rfl

@[simp] theorem openJob_statusOut : (openJob s).statusOut = 0x00000001#32 := by
  simp [State.statusOut, Phase.isActive]

theorem openJob_openJob : openJob (openJob s) = openJob s := rfl

theorem matchFlag_of_eq {computed expected : Word} (h : computed = expected) : matchFlag computed expected = true :=
  beq_iff_eq.mpr h

theorem matchFlag_of_ne {computed expected : Word} (h : computed ≠ expected) : matchFlag computed expected = false :=
  beq_eq_false_iff_ne.mpr h

variable {s}

/-- A closed job with no error shows DONE, and VKIND and MATCH as they were written. -/
theorem closeJob_statusOut (v m : Bool) (err : s.err = false) (errcode : s.errcode = 0) :
    (closeJob v m s).statusOut = flagWord m <<< 3 ||| flagWord v <<< 2 ||| 0x00000002#32 := by
  simp [State.statusOut, Phase.isActive, err, errcode]

/-! ### The statements -/

/-- Settles O28: START's beat is its encoding, and its writes do not depend on what they overwrite. -/
theorem startOpensAJob : Obligations.StartOpensAJob := by
  intro s
  refine ⟨exec_start s, fun t h => ?_, acceptBeat_encode s .start, fun arg harg => ?_⟩
  · obtain rfl : openJob s = t := Host.Outcome.next.inj h
    exact ⟨openJob_statusOut s, openJob_result s, by rw [exec_start, openJob_openJob]⟩
  · exact acceptBeat_mkBeat_reserved s (f := .z) rfl (mt (reservedClear_none_iff arg).mp harg)

/-- Settles O29: only the register is written, which neither output is read from. -/
theorem dataFeedsOneByte : Obligations.DataFeedsOneByte := by
  refine ⟨fun s b e active => ?_, fun s b idle => ?_, fun s arg high => ?_, by decide +kernel, byteUpdateIsEightBitSteps.2⟩
  · exact ⟨exec_data_active b active, by rw [byteUpdate_eq_upd], rfl, rfl, acceptBeat_encode s (.data b)⟩
  · exact (acceptBeat_encode s (.data b)).trans (exec_idle (by simp) idle)
  · exact acceptBeat_mkBeat_reserved s (f := .b) rfl (mt (reservedClear_byte_iff_high arg).mp high)

/-- Settles O30: the job is closed with both flags 0, which leaves DONE alone in STATUS. -/
theorem endComputePublishesTheCrc : Obligations.EndComputePublishesTheCrc := by
  refine ⟨fun s active => ?_, fun s idle => ?_, fun s arg harg => ?_⟩
  · refine ⟨exec_endCompute_active active, acceptBeat_encode s .endCompute, fun err errcode t h => ?_⟩
    obtain rfl : closeJob false false s = t := Host.Outcome.next.inj ((exec_endCompute_active active).symm.trans h)
    exact closeJob_statusOut false false err errcode
  · exact (acceptBeat_encode s .endCompute).trans (exec_idle (by simp) idle)
  · exact acceptBeat_mkBeat_reserved s (f := .z) rfl (mt (reservedClear_none_iff arg).mp harg)

/-- Settles O31: the job is closed with the comparator's answer, whatever the argument. -/
theorem endVerifyPublishesAndCompares : Obligations.EndVerifyPublishesAndCompares := by
  intro s e
  refine ⟨acceptBeat_encode s (.endVerify e), fun active same => ?_, fun active differ => ?_, exec_idle (by simp)⟩
  · rw [exec_endVerify_active e active, matchFlag_of_eq (computed := finalize s.crc) same]
    rfl
  · rw [exec_endVerify_active e active, matchFlag_of_ne (computed := finalize s.crc) differ]
    rfl

end Sys2Proof.Machine
end

section
/-! PROOFS. Whole jobs: the bytes fed one after the other, and the end of the job (41_job_commands.md R115 and R116). -/

namespace Sys2Proof.Machine

/-! ### The state after a run of DATA commands -/

/-- The state with a whole byte sequence fed into the running register (40_crc_function.md R87). -/
def feedBytes (d : List Byte) (s : State) : State := { s with crc := runCrc s.crc d }

@[simp] theorem feedBytes_phase (d : List Byte) (s : State) : (feedBytes d s).phase = s.phase := rfl
@[simp] theorem feedBytes_crc (d : List Byte) (s : State) : (feedBytes d s).crc = runCrc s.crc d := rfl
@[simp] theorem feedBytes_err (d : List Byte) (s : State) : (feedBytes d s).err = s.err := rfl
@[simp] theorem feedBytes_errcode (d : List Byte) (s : State) : (feedBytes d s).errcode = s.errcode := rfl

/-! ### Runs of beats -/

theorem runBeats_cons_encode (i : Instr) (bs : List Beat) (s : State) :
    runBeats (encode i :: bs) s = andThen (exec i s) (runBeats bs) := by
  rw [runBeats, acceptBeat_encode]

theorem runBeats_singleton_encode (i : Instr) (s : State) : runBeats [encode i] s = exec i s := by
  rw [runBeats_cons_encode]
  cases exec i s <;> rfl

/-- DATA commands in an open job feed their bytes in order, and what follows them runs from there. -/
theorem runBeats_data_append (d : List Byte) (bs : List Beat) {s : State} (active : s.phase = .active) :
    runBeats (beatsOf (d.map .data) ++ bs) s = runBeats bs (feedBytes d s) := by
  induction d generalizing s with
  | nil => rfl
  | cons b d ih =>
    have fed := runBeats_cons_encode (.data b) (beatsOf (d.map .data) ++ bs) s
    rw [exec_data_active b active, andThen_next] at fed
    exact fed.trans (ih active)

/-- A job from START to the command that ends it, from every state: the end runs with the job's bytes in the register. -/
theorem runBeats_job (d : List Byte) (i : Instr) (s : State) :
    runBeats (beatsOf (.start :: (d.map .data ++ [i]))) s = exec i (feedBytes d (openJob s)) := by
  have beats : beatsOf (.start :: (d.map .data ++ [i])) = encode .start :: (beatsOf (d.map .data) ++ [encode i]) := by
    simp [beatsOf]
  rw [beats, runBeats_cons_encode, exec_start, andThen_next, runBeats_data_append d _ (openJob_phase s),
    runBeats_singleton_encode]

theorem runBeats_computeJob (d : List Byte) (s : State) :
    runBeats (beatsOf (computeJob d)) s = .next (closeJob false false (feedBytes d (openJob s))) := by
  rw [computeJob, runBeats_job]
  exact exec_endCompute_active (openJob_phase s)

theorem runBeats_verifyJob (d : List Byte) (e : Word) (s : State) :
    runBeats (beatsOf (verifyJob d e)) s = .next (closeJob true (verify d e) (feedBytes d (openJob s))) := by
  rw [verifyJob, runBeats_job]
  exact exec_endVerify_active e (openJob_phase s)

/-! ### The statements -/

/-- Settles O40: the job's register is run(INIT, d), and closing it publishes its finalised value. -/
theorem computeJobGivesCrc : Obligations.ComputeJobGivesCrc := fun s d =>
  ⟨closeJob false false (feedBytes d (openJob s)), runBeats_computeJob d s, rfl, rfl, rfl, rfl, rfl, rfl, rfl, rfl,
    closeJob_statusOut false false rfl rfl⟩

/-- Settles O41: as the compute job, with the comparison in MATCH. -/
theorem verifyJobGivesCrcAndComparison : Obligations.VerifyJobGivesCrcAndComparison := by
  intro s d e
  have status := closeJob_statusOut (s := feedBytes d (openJob s)) true (verify d e) rfl rfl
  refine ⟨closeJob true (verify d e) (feedBytes d (openJob s)), runBeats_verifyJob d e s, rfl, rfl, rfl, rfl, rfl, rfl, rfl,
    fun same => ?_, fun differ => ?_⟩
  · rw [status, show verify d e = true from beq_iff_eq.mpr same]
    rfl
  · rw [status, (verify_eq_false_iff d e).mpr differ]
    rfl

end Sys2Proof.Machine
end

section
/-! PROOFS. Nothing before a START shows after it (41_job_commands.md R117). -/

namespace Sys2Proof.Machine

/-- Two states that a START has cut off from their pasts: the phase and the flags are the same, the running register is where a job is
open to use it, and RESULT is where DONE vouches for it. -/
structure State.AgreesSinceStart (s₁ s₂ : State) : Prop where
  phase : s₁.phase = s₂.phase
  crc : s₁.phase = .active → s₁.crc = s₂.crc
  result : s₁.done = true → s₁.result = s₂.result
  done : s₁.done = s₂.done
  vkind : s₁.vkind = s₂.vkind
  matched : s₁.matched = s₂.matched
  err : s₁.err = s₂.err
  errcode : s₁.errcode = s₂.errcode

/-- START writes all that two states have to agree on, and clears DONE, so it needs nothing of them. -/
theorem openJob_agreesSinceStart (s₁ s₂ : State) : (openJob s₁).AgreesSinceStart (openJob s₂) where
  phase := rfl
  crc _ := rfl
  result done := absurd done (by simp)
  done := rfl
  vkind := rfl
  matched := rfl
  err := rfl
  errcode := rfl

namespace State.AgreesSinceStart

variable {s₁ s₂ : State} (h : s₁.AgreesSinceStart s₂)
include h

theorem statusOut_eq : s₁.statusOut = s₂.statusOut := by
  simp only [State.statusOut, h.phase, h.done, h.vkind, h.matched, h.err, h.errcode]

theorem raiseCmdError (k : CmdError) : (raiseCmdError k s₁).AgreesSinceStart (raiseCmdError k s₂) where
  phase := rfl
  crc active := absurd active (by simp)
  result := by simpa using h.result
  done := by simpa using h.done
  vkind := by simpa using h.vkind
  matched := by simpa using h.matched
  err := by simp
  errcode := by simp [h.err, h.errcode]

theorem feedByte (e : Config.Engine) (b : Byte) : (feedByte e b s₁).AgreesSinceStart (feedByte e b s₂) :=
  { h with crc := fun active => by simp [h.crc active] }

/-- The end of an open job publishes the register, so RESULT agrees from there on. -/
theorem closeJob (v m : Bool) (active : s₁.phase = .active) : (closeJob v m s₁).AgreesSinceStart (closeJob v m s₂) where
  phase := rfl
  crc reopened := absurd reopened (by simp)
  result _ := by simp [h.crc active]
  done := rfl
  vkind := rfl
  matched := rfl
  err := h.err
  errcode := h.errcode

/-- The phase check lets both commands run or turns both away. -/
theorem inJob {f g : State → State} (whenActive : s₁.phase = .active → (f s₁).AgreesSinceStart (g s₂)) :
    (inJob f s₁).AgreesSinceStart (inJob g s₂) := by
  cases hp : s₁.phase with
  | idle =>
    rw [inJob_idle hp, inJob_idle (h.phase ▸ hp)]
    exact h.raiseCmdError .noJob
  | active =>
    rw [inJob_active hp, inJob_active (h.phase ▸ hp)]
    exact whenActive hp

theorem exec (i : Instr) :
    ∃ t₁ t₂, exec i s₁ = .next t₁ ∧ exec i s₂ = .next t₂ ∧ t₁.AgreesSinceStart t₂ := by
  cases i with
  | start => exact ⟨_, _, rfl, rfl, openJob_agreesSinceStart s₁ s₂⟩
  | data b => exact ⟨_, _, rfl, rfl, h.inJob fun _ => h.feedByte Config.modelEngine b⟩
  | endCompute => exact ⟨_, _, rfl, rfl, h.inJob (h.closeJob false false)⟩
  | endVerify e =>
    refine ⟨_, _, rfl, rfl, h.inJob fun active => ?_⟩
    rw [h.crc active]
    exact h.closeJob true _ active

theorem acceptBeat (beat : Beat) :
    ∃ t₁ t₂, acceptBeat beat s₁ = .next t₁ ∧ acceptBeat beat s₂ = .next t₂ ∧ t₁.AgreesSinceStart t₂ := by
  unfold Machine.acceptBeat
  cases decode beat with
  | ok i => exact h.exec i
  | error k => exact ⟨_, _, rfl, rfl, h.raiseCmdError k⟩

/-- Any beats at all keep two states in agreement, and none of them stops the machine. -/
theorem runBeats (bs : List Beat) :
    ∃ t₁ t₂, runBeats bs s₁ = .next t₁ ∧ runBeats bs s₂ = .next t₂ ∧ t₁.AgreesSinceStart t₂ := by
  induction bs generalizing s₁ s₂ with
  | nil => exact ⟨s₁, s₂, rfl, rfl, h⟩
  | cons beat bs ih =>
    obtain ⟨u₁, u₂, step₁, step₂, agree⟩ := h.acceptBeat beat
    simpa only [Machine.runBeats, step₁, step₂, andThen_next] using ih agree

end State.AgreesSinceStart

/-- Settles O42: START brings any two states into agreement, the beats after it keep them there, and the outputs show no more than that. -/
theorem jobsAreIsolatedFromThePast : Obligations.JobsAreIsolatedFromThePast := by
  intro s₁ s₂ bs
  obtain ⟨t₁, t₂, run₁, run₂, agree⟩ := (openJob_agreesSinceStart s₁ s₂).runBeats bs
  exact ⟨t₁, t₂, (runBeats_cons_encode .start bs s₁).trans run₁, (runBeats_cons_encode .start bs s₂).trans run₂,
    agree.statusOut_eq, agree.matched, agree.result⟩

end Sys2Proof.Machine
end

section
/-! PROOFS. What a command error does to the state (60_exceptions.md R143). -/

namespace Sys2Proof.Machine

/-- Settles O33: the two cases of the error latch, an error pair that is still clear and one that keeps its first code. -/
theorem commandErrorEffect : Obligations.CommandErrorEffect :=
  fun k _ => ⟨raiseCmdError_of_err_clear k, raiseCmdError_of_err_set k⟩

end Sys2Proof.Machine
end

section
/-! PROOFS. No command and no beat stops the block, and START opens a clean job from wherever they leave it
(70_reset_and_hazards.md R180). -/

namespace Sys2Proof.Machine

/-- A command that finds no open job takes NO_JOB inside `inJob` (60_exceptions.md R141), which is a next state too. -/
theorem exec_answers_next (i : Instr) (s : State) : ∃ t, exec i s = .next t := by
  cases i with
  | start => exact ⟨openJob s, exec_start s⟩
  | data b => exact ⟨inJob (feedByte Config.modelEngine b) s, rfl⟩
  | endCompute => exact ⟨inJob (closeJob false false) s, rfl⟩
  | endVerify e => exact ⟨inJob (closeJob true (matchFlag (finalize s.crc) e)) s, rfl⟩

theorem acceptBeat_answers_next (beat : Beat) (s : State) : ∃ t, acceptBeat beat s = .next t := by
  unfold acceptBeat
  cases decode beat with
  | ok i => exact exec_answers_next i s
  | error k => exact ⟨raiseCmdError k s, rfl⟩

/-- Settles O36: any beat answers some next state, and START's writes do not depend on which. -/
theorem everyBeatCompletesAndStartRecovers : Obligations.EveryBeatCompletesAndStartRecovers := by
  intro beat s
  obtain ⟨t, accepted⟩ := acceptBeat_answers_next beat s
  exact ⟨t, openJob t, accepted, exec_start t, openJob_phase t, openJob_crc t, openJob_err t, openJob_errcode t, openJob_done t⟩

end Sys2Proof.Machine
end

section
/-! PROOFS. Decoding and encoding are inverse to each other, and what decoding answers agrees with the rule's conditions and with the rows of
the opcode table (30_encoding.md sections 1 to 4; 60_exceptions.md R141). -/

namespace Sys2Proof.Machine

/-! ### The round trip -/

/-- A beat is a table word of 40 bits as it stands. -/
theorem beatOfTableWord_toNat (beat : Beat) : beatOfTableWord 40 beat.toNat = some beat := by
  have fits : beat.toNat % 2 ^ 40 = beat.toNat := Nat.mod_eq_of_lt beat.isLt
  rw [beatOfTableWord, fits, if_pos beat.isLt, BitVec.ofNat_toNat, BitVec.setWidth_eq]

theorem decodeTableWord_toNat (beat : Beat) : decodeTableWord 40 beat.toNat = (decode beat).toOption := by
  rw [decodeTableWord, beatOfTableWord_toNat]

/-- Settles O15: the fields of a command's beat are those decoding reads, and the table word is the beat. -/
theorem decodeOfEncode : Obligations.DecodeOfEncode := fun i _ =>
  ⟨decode_encode i, by rw [decodeTableWord_toNat, decode_encode]; rfl⟩

theorem mkBeat_eq_of_fields {beat : Beat} {op : Byte} {arg : Word} (hop : opField beat = op) (harg : argField beat = arg) :
    mkBeat op arg = beat := by
  rw [← hop, ← harg, mkBeat_fields]

/-- Each form's clear must-be-zero bits leave no freedom in ARG beside the operand. -/
theorem encode_of_decode {beat : Beat} {i : Instr} (h : decode beat = .ok i) : encode i = beat := by
  obtain ⟨hd, hop, harg⟩ | ⟨hd, hop, clear⟩ | ⟨hd, hop, harg⟩ | ⟨hd, hop⟩ | ⟨hd, -⟩ | ⟨hd, -⟩ := decode_cases beat <;>
    obtain h := hd.symm.trans h
  · obtain rfl := Except.ok.inj h
    exact mkBeat_eq_of_fields hop harg
  · obtain rfl := Except.ok.inj h
    exact mkBeat_eq_of_fields hop ((reservedClear_byte_iff _).mp clear).symm
  · obtain rfl := Except.ok.inj h
    exact mkBeat_eq_of_fields hop harg
  · obtain rfl := Except.ok.inj h
    exact mkBeat_eq_of_fields hop rfl
  · cases h
  · cases h

/-- Settles O16: a beat is its two fields, and those of a beat that decodes are the command's. -/
theorem encodeOfDecode : Obligations.EncodeOfDecode := fun _ _ => encode_of_decode

/-! ### The answers, in the beat's own bits -/

theorem formOf_eq_none_iff (op : Byte) : formOf op = none ↔ op ≠ 1 ∧ op ≠ 2 ∧ op ≠ 3 ∧ op ≠ 4 := by
  refine ⟨fun h => ⟨?_, ?_, ?_, ?_⟩, fun ⟨h1, h2, h3, h4⟩ => formOf_eq_none ?_⟩
  · rintro rfl; cases h
  · rintro rfl; cases h
  · rintro rfl; cases h
  · rintro rfl; cases h
  · rintro n (rfl | rfl | rfl | rfl)
    exacts [h1, h2, h3, h4]

/-- The forms of the assigned opcodes (30_encoding.md R61, R62). -/
theorem formOf_eq_some {op : Byte} {f : Form} (h : formOf op = some f) :
    ((op = 1 ∨ op = 3) ∧ f = .z) ∨ (op = 2 ∧ f = .b) ∨ (op = 4 ∧ f = .w) := by
  by_cases h1 : op = 1
  · subst h1; cases h; simp
  by_cases h2 : op = 2
  · subst h2; cases h; simp
  by_cases h3 : op = 3
  · subst h3; cases h; simp
  by_cases h4 : op = 4
  · subst h4; cases h; simp
  · rw [(formOf_eq_none_iff op).mpr ⟨h1, h2, h3, h4⟩] at h
    cases h

/-- Decoding finds a set must-be-zero bit only in the forms that have some. -/
theorem set_mustBeZero_of_decode {beat : Beat} (h : decode beat = .error .reservedArg) :
    ((beat.extractLsb 39 32 = 1#8 ∨ beat.extractLsb 39 32 = 3#8) ∧ beat.extractLsb 31 0 ≠ 0#32)
      ∨ (beat.extractLsb 39 32 = 2#8 ∧ beat.extractLsb 31 8 ≠ 0#24) := by
  obtain ⟨f, form, reserved⟩ := (decode_eq_reservedArg_iff beat).mp h
  have set : ¬ f.reservedClear (argField beat) = true := Bool.not_eq_true _ ▸ reserved
  obtain ⟨hop, rfl⟩ | ⟨hop, rfl⟩ | ⟨-, rfl⟩ := formOf_eq_some form
  · exact .inl ⟨hop, mt (reservedClear_none_iff _).mpr set⟩
  · rw [reservedClear_byte_iff_high, argField_extractLsb_31_8] at set
    exact .inr ⟨hop, set⟩
  · exact absurd (reservedClear_word _) set

theorem decode_ne_noJob (beat : Beat) : decode beat ≠ .error .noJob := by
  obtain ⟨h, -⟩ | ⟨h, -⟩ | ⟨h, -⟩ | ⟨h, -⟩ | ⟨h, -⟩ | ⟨h, -⟩ := decode_cases beat <;> rw [h] <;> simp

theorem beatWf_encode (i : Instr) : beatWf (encode i) = true := by
  cases i with
  | start => exact Laws.EncodedFields.start.2.2
  | data b => exact (Laws.EncodedFields.data b).2.2
  | endCompute => exact Laws.EncodedFields.endCompute.2.2
  | endVerify e => exact (Laws.EncodedFields.endVerify e).2.2

/-- The beats that spell a command (30_encoding.md R64) are those of the encoder. -/
theorem exists_decode_ok_iff (beat : Beat) : (∃ i, decode beat = .ok i) ↔ beatWf beat = true := by
  constructor
  · rintro ⟨i, h⟩
    rw [← encode_of_decode h, beatWf_encode]
  · intro wf
    obtain ⟨assigned, clear⟩ := Bool.and_eq_true_iff.mp wf
    obtain ⟨h, -⟩ | ⟨h, -⟩ | ⟨h, -⟩ | ⟨h, -⟩ | ⟨-, -, set⟩ | ⟨-, unassigned⟩ := decode_cases beat
    · exact ⟨_, h⟩
    · exact ⟨_, h⟩
    · exact ⟨_, h⟩
    · exact ⟨_, h⟩
    · simp [clear] at set
    · simp [assigned] at unassigned

/-- Settles O17: the opcode has no form, or its form has a bit set that must be zero, or the beat is an encoding. -/
theorem decodingErrorsExactly : Obligations.DecodingErrorsExactly := fun beat =>
  ⟨(decode_eq_illegalOp_iff beat).trans (formOf_eq_none_iff (opField beat)),
    ⟨set_mustBeZero_of_decode, decode_of_set_mustBeZero⟩, decode_ne_noJob beat, exists_decode_ok_iff beat⟩

/-! ### The rows of the opcode table -/

/-- The row of an opcode and its form: the opcode is fixed, and the form's bits of ARG must be zero. -/
def rowOf (entry : Byte × Form) : OpcodeRow where
  fixed := mkBeat entry.1 0
  mask := mkBeat 0xFF 0
  mustBeZero := mkBeat 0 entry.2.mustBeZero

/-- The four opcodes with their forms, as R61 and R62 give them. -/
def opcodeForms : List (Byte × Form) := [(0x01, .z), (0x02, .b), (0x03, .z), (0x04, .w)]

theorem opcodeRows_eq : opcodeRows = opcodeForms.map rowOf := by decide

theorem mkBeat_and (op₁ op₂ : Byte) (arg₁ arg₂ : Word) :
    mkBeat op₁ arg₁ &&& mkBeat op₂ arg₂ = mkBeat (op₁ &&& op₂) (arg₁ &&& arg₂) := by
  apply BitVec.eq_of_getLsbD_eq
  intro i hi
  rw [BitVec.getLsbD_and, mkBeat_getLsbD _ _ i hi, mkBeat_getLsbD _ _ i hi, mkBeat_getLsbD _ _ i hi]
  split <;> rw [BitVec.getLsbD_and]

theorem mkBeat_inj {op₁ op₂ : Byte} {arg₁ arg₂ : Word} :
    mkBeat op₁ arg₁ = mkBeat op₂ arg₂ ↔ op₁ = op₂ ∧ arg₁ = arg₂ := by
  constructor
  · intro h
    exact ⟨by simpa using congrArg opField h, by simpa using congrArg argField h⟩
  · rintro ⟨rfl, rfl⟩
    rfl

theorem byte_and_mask (op : Byte) : op &&& 0xFF = op := BitVec.and_allOnes

/-- A row selects a beat by its opcode alone. -/
theorem rowOf_selects (entry : Byte × Form) (beat : Beat) : (rowOf entry).selects beat = (opField beat == entry.1) := by
  have masked : beat &&& mkBeat 0xFF 0 = mkBeat (opField beat) 0 := by
    conv_lhs => rw [← mkBeat_fields beat, mkBeat_and, byte_and_mask, BitVec.ofNat_eq_ofNat, BitVec.and_zero]
    rfl
  rw [Bool.eq_iff_iff, OpcodeRow.selects, beq_iff_eq, beq_iff_eq, rowOf, masked, mkBeat_inj]
  exact and_iff_left rfl

theorem rowOf_clear (entry : Byte × Form) (beat : Beat) :
    (rowOf entry).clear beat = entry.2.reservedClear (argField beat) := by
  have masked : beat &&& mkBeat 0 entry.2.mustBeZero = mkBeat 0 (argField beat &&& entry.2.mustBeZero) := by
    conv_lhs => rw [← mkBeat_fields beat, mkBeat_and, BitVec.ofNat_eq_ofNat, BitVec.and_zero]
    rfl
  have zero : (0 : Beat) = mkBeat 0 0 := by decide
  rw [Bool.eq_iff_iff, OpcodeRow.clear, Form.reservedClear, beq_iff_eq, beq_iff_eq, rowOf, masked, zero, mkBeat_inj]
  exact and_iff_right rfl

/-- No opcode stands in two rows. -/
theorem opcodeForms_filter_length (op : Byte) : (opcodeForms.filter fun entry => op == entry.1).length ≤ 1 := by
  have nodup : (opcodeForms.map Prod.fst).Nodup := by decide
  calc (opcodeForms.filter fun entry => op == entry.1).length
      = (opcodeForms.map Prod.fst).count op := by
        rw [List.count, List.countP_map, List.countP_eq_length_filter]
        congr 2
        funext entry
        exact Bool.beq_comm
    _ ≤ 1 := List.nodup_iff_count_le_one.mp nodup op

theorem mem_opcodeForms_iff (op : Byte) (f : Form) : (op, f) ∈ opcodeForms ↔ formOf op = some f := by
  constructor
  · intro h
    simp only [opcodeForms, List.mem_cons, List.not_mem_nil, or_false, Prod.mk.injEq] at h
    obtain ⟨rfl, rfl⟩ | ⟨rfl, rfl⟩ | ⟨rfl, rfl⟩ | ⟨rfl, rfl⟩ := h <;> rfl
  · intro h
    obtain ⟨rfl | rfl, rfl⟩ | ⟨rfl, rfl⟩ | ⟨rfl, rfl⟩ := formOf_eq_some h <;> simp [opcodeForms]

theorem beatWf_iff (beat : Beat) :
    beatWf beat = true ↔ ∃ f, formOf (opField beat) = some f ∧ f.reservedClear (argField beat) = true := by
  unfold beatWf beatOpAssigned beatReservedClear
  cases formOf (opField beat) <;> simp

/-- Settles O18: the rows are the opcodes with their forms, which decoding goes by. -/
theorem decodingFollowsOpcodeTable : Obligations.DecodingFollowsOpcodeTable := by
  rw [Obligations.DecodingFollowsOpcodeTable, opcodeRows_eq]
  refine ⟨fun beat => ?_, fun beat => ?_⟩
  · have rows : (fun r : OpcodeRow => r.selects beat) ∘ rowOf = fun entry => opField beat == entry.1 :=
      funext fun entry => rowOf_selects entry beat
    rw [List.filter_map, List.length_map, rows]
    exact opcodeForms_filter_length (opField beat)
  · rw [exists_decode_ok_iff, beatWf_iff]
    constructor
    · rintro ⟨f, form, clear⟩
      exact ⟨rowOf (opField beat, f), List.mem_map_of_mem ((mem_opcodeForms_iff _ _).mpr form),
        by rw [rowOf_selects, beq_self_eq_true], by rw [rowOf_clear, clear]⟩
    · rintro ⟨r, mem, selects, clear⟩
      obtain ⟨⟨op, f⟩, listed, rfl⟩ := List.mem_map.mp mem
      rw [rowOf_selects, beq_iff_eq] at selects
      rw [rowOf_clear] at clear
      exact ⟨f, by rw [selects]; exact (mem_opcodeForms_iff op f).mp listed, clear⟩

end Sys2Proof.Machine
end

section
/-! PROOFS. The six invariants of the state (10_state.md R36): what each operation needs of them, and that every step keeps them. -/

namespace Sys2Proof.Machine

/-! ### The operations -/

theorem CmdError.code_valid (k : CmdError) : k.code = 1 ∨ k.code = 2 ∨ k.code = 3 := by
  cases k <;> simp [CmdError.code]

theorem reset_inv : State.reset.Inv := by
  simp [State.Inv, State.reset]

/-- The invariants speak of the phase and the flags alone, which a reset writes all. -/
theorem applyReset_inv (s : State) : (applyReset s).Inv := reset_inv

/-- START writes the phase and every flag, so it needs nothing of them. -/
theorem openJob_inv (s : State) : (openJob s).Inv := by
  simp [State.Inv]

theorem feedByte_inv {s : State} (h : s.Inv) (e : Config.Engine) (b : Byte) : (feedByte e b s).Inv := h

/-- The end of a job may set MATCH only with VKIND, and leaves the error pair as it was. -/
theorem closeJob_inv {s : State} (h : s.Inv) {v m : Bool} (kind : m = true → v = true) : (closeJob v m s).Inv := by
  obtain ⟨-, -, -, pair, code, -⟩ := h
  refine ⟨fun reopened => absurd reopened (by simp), fun hm => ⟨kind hm, rfl⟩, fun _ => rfl, pair, code, fun _ => rfl⟩

/-- A command error closes the job and leaves a code of R140, its own or an earlier one. -/
theorem raiseCmdError_inv {s : State} (h : s.Inv) (k : CmdError) : (raiseCmdError k s).Inv := by
  obtain ⟨-, matched, vkind, -, code, -⟩ := h
  have valid : (raiseCmdError k s).errcode = 1 ∨ (raiseCmdError k s).errcode = 2 ∨ (raiseCmdError k s).errcode = 3 := by
    cases he : s.err with
    | false => simpa [he] using k.code_valid
    | true => simpa [he] using code he
  have nonzero : (raiseCmdError k s).errcode ≠ 0 := by
    obtain h1 | h2 | h3 := valid
    · rw [h1]; decide
    · rw [h2]; decide
    · rw [h3]; decide
  refine ⟨fun reopened => absurd reopened (by simp), by simpa using matched, by simpa using vkind, ?_, fun _ => valid,
    fun _ => rfl⟩
  exact iff_of_false (by simp) nonzero

/-! ### From the commands to a step -/

theorem exec_inv {i : Instr} {s t : State} (h : s.Inv) (he : exec i s = .next t) : t.Inv := by
  obtain ⟨-, rfl⟩ | ⟨-, -, rfl⟩ | ⟨-, b, -, rfl⟩ | ⟨-, -, rfl⟩ | ⟨-, e, -, rfl⟩ := exec_cases he
  · exact openJob_inv s
  · exact raiseCmdError_inv h .noJob
  · exact feedByte_inv h Config.modelEngine b
  · exact closeJob_inv h id
  · exact closeJob_inv h fun _ => rfl

theorem acceptBeat_inv {beat : Beat} {s t : State} (h : s.Inv) (hb : acceptBeat beat s = .next t) : t.Inv := by
  obtain ⟨i, -, he⟩ | ⟨k, -, rfl⟩ := acceptBeat_cases hb
  · exact exec_inv h he
  · exact raiseCmdError_inv h k

/-- A loss of power ends what the invariants are said of, and a reset begins it anew (70_reset_and_hazards.md R173). -/
theorem takeEvent_safe {e : PortEvent} {s t : State} (h : s.Safe) (he : takeEvent e s = .next t) : t.Safe := by
  obtain ⟨-, rfl⟩ | ⟨p, -, -, rfl⟩ | ⟨p, -, -, -, rfl⟩ | ⟨p, -, -, -, reset, hb⟩ := takeEvent_cases he
  · exact fun reset => absurd reset (by simp)
  · exact fun _ => applyReset_inv s
  · exact h
  · exact fun _ => acceptBeat_inv (h reset) hb

/-- Settles O22: the reset state is idle with every flag 0. -/
theorem resetStateMeetsInvariants : Obligations.ResetStateMeetsInvariants := ⟨reset_inv, fun _ => reset_inv⟩

/-- Settles O23: a step takes at most one port event, and what is queued is no part of the invariants. -/
theorem stepKeepsInvariants : Obligations.StepKeepsInvariants := by
  intro s t h hs
  obtain ⟨-, rfl⟩ | ⟨e, rest, -, he⟩ := step_cases hs
  · exact h
  · have consumed : ({ s with inputs := rest } : State).Safe := h
    exact takeEvent_safe consumed he

end Sys2Proof.Machine
end

section
/-! PROOFS. The block is a recorder of whole buffers (41_job_commands.md R115 to R118; 70_reset_and_hazards.md R175, R177). -/

namespace Sys2Proof.Machine

/-! ### One beat at the recorder and at the block -/

theorem runCrc_concat (c : Word) (d : List Byte) (b : Byte) : runCrc c (d ++ [b]) = upd (runCrc c d) b := by
  rw [runCrc_append]
  rfl

@[simp] theorem Recorder.fail_job (k : CmdError) (r : Recorder) : (r.fail k).job = none := rfl
@[simp] theorem Recorder.fail_finished (k : CmdError) (r : Recorder) : (r.fail k).finished = r.finished := rfl
@[simp] theorem Recorder.fail_published (k : CmdError) (r : Recorder) : (r.fail k).published = r.published := rfl
@[simp] theorem Recorder.fail_error (k : CmdError) (r : Recorder) : (r.fail k).error = r.error.or (some k) := rfl

/-- A command with no job open, at the recorder. -/
theorem Recorder.perform_eq_fail {r : Recorder} {i : Instr} (hi : i ≠ .start) (job : r.job = none) : r.perform i = r.fail .noJob := by
  cases i with
  | start => exact absurd rfl hi
  | data b => simp [Recorder.perform, job]
  | endCompute => simp [Recorder.perform, job]
  | endVerify e => simp [Recorder.perform, job]

namespace Recorder.Matches

variable {r : Recorder} {s : State} (h : r.Matches s)
include h

/-- START empties the job and forgets the job before it, but not what RESULT came from. -/
theorem openJob : (r.perform .start).Matches (openJob s) := by
  obtain ⟨-, -, -, -, -, result, -, -⟩ := h
  refine ⟨rfl, fun d hd => ?_, rfl, fun f hf => ?_, fun _ => ⟨rfl, rfl⟩, result, rfl, rfl⟩
  · cases hd
    rfl
  · cases hf

/-- A command error loses the open job, and the first code since START is the recorder's. -/
theorem raiseCmdError (k : CmdError) : (r.fail k).Matches (raiseCmdError k s) := by
  obtain ⟨-, -, done, finished, unfinished, result, err, errcode⟩ := h
  refine ⟨rfl, fun d hd => absurd hd (by simp), by simpa using done, by simpa using finished,
    by simpa using unfinished, by simpa using result, by simp, ?_⟩
  cases hr : r.error with
  | none => simp [hr, err]
  | some first => simp [hr, err, errcode]

theorem crc_eq {d : List Byte} (job : r.job = some d) : s.crc = runCrc Config.init d := by
  obtain ⟨-, crc, -⟩ := h
  exact crc d job

theorem phase_eq_active {d : List Byte} (job : r.job = some d) : s.phase = .active := by
  obtain ⟨phase, -⟩ := h
  cases hp : s.phase with
  | active => rfl
  | idle => simp [hp, job, Phase.isActive] at phase

theorem phase_eq_idle (job : r.job = none) : s.phase = .idle := by
  obtain ⟨phase, -⟩ := h
  cases hp : s.phase with
  | idle => rfl
  | active => simp [hp, job, Phase.isActive] at phase

theorem feedByte {d : List Byte} (job : r.job = some d) (b : Byte) :
    Recorder.Matches { r with job := some (d ++ [b]) } { s with crc := upd s.crc b } := by
  have active := h.phase_eq_active job
  obtain ⟨-, crc, done, finished, unfinished, result, err, errcode⟩ := h
  refine ⟨by simp [active, Phase.isActive], fun d' hd => ?_, done, finished, unfinished, result, err, errcode⟩
  cases hd
  rw [runCrc_concat, crc d job]

/-- The end of a job publishes the source's compute of its bytes, and of a verification its verify. -/
theorem closeJob {d : List Byte} (job : r.job = some d) (expected : Option Word) {m : Bool}
    (verdict : m = (match expected with | some e => verify d e | none => false)) :
    Recorder.Matches { r with job := none, finished := some ⟨d, expected⟩, published := some d }
      (closeJob expected.isSome m s) := by
  obtain ⟨-, crc, -, -, -, -, err, errcode⟩ := h
  refine ⟨rfl, fun d' hd => absurd hd (by simp), rfl, fun f hf => ?_, fun hf => absurd hf (by simp), ?_, err, errcode⟩
  · cases hf
    exact ⟨rfl, rfl, verdict⟩
  · rw [closeJob_result, crc d job]
    rfl

/-- A command does the same to the recorder and to the block, where a job is open and where none is. -/
theorem exec {i : Instr} {t : State} (he : exec i s = .next t) : (r.perform i).Matches t := by
  by_cases hi : i = .start
  · subst hi
    obtain rfl := Host.Outcome.next.inj he
    exact h.openJob
  cases job : r.job with
  | none =>
    rw [exec_idle hi (h.phase_eq_idle job)] at he
    obtain rfl := Host.Outcome.next.inj he
    rw [Recorder.perform_eq_fail hi job]
    exact h.raiseCmdError .noJob
  | some d =>
    have active := h.phase_eq_active job
    cases i with
    | start => exact absurd rfl hi
    | data b =>
      rw [exec_data_active b active] at he
      obtain rfl := Host.Outcome.next.inj he
      simpa only [Recorder.perform, job] using h.feedByte job b
    | endCompute =>
      rw [exec_endCompute_active active] at he
      obtain rfl := Host.Outcome.next.inj he
      simpa only [Recorder.perform, job, Option.isSome] using h.closeJob job none rfl
    | endVerify e =>
      rw [exec_endVerify_active e active] at he
      obtain rfl := Host.Outcome.next.inj he
      have verdict : matchFlag (finalize s.crc) e = verify d e := by
        rw [h.crc_eq job]
        rfl
      simpa only [Recorder.perform, job, Option.isSome] using h.closeJob job (some e) verdict

theorem acceptBeat {beat : Beat} {t : State} (hb : acceptBeat beat s = .next t) : (r.accept beat).Matches t := by
  obtain ⟨i, hd, he⟩ | ⟨k, hd, rfl⟩ := acceptBeat_cases hb
  · simpa only [Recorder.accept, hd] using h.exec he
  · simpa only [Recorder.accept, hd] using h.raiseCmdError k

end Recorder.Matches

/-! ### The statements -/

/-- Settles O45: with no job, no result and no error every field is at its reset value. -/
theorem recorderMatchesReset : Obligations.RecorderMatchesReset :=
  ⟨rfl, fun _ job => absurd job (by simp [Recorder.init]), rfl, fun _ finished => absurd finished (by simp [Recorder.init]),
    fun _ => ⟨rfl, rfl⟩, rfl, rfl, rfl⟩

/-- Settles O44: decoding is the same for both, and each command keeps them in step. -/
theorem everyBeatFollowsTheRecorder : Obligations.EveryBeatFollowsTheRecorder :=
  fun _ _ _ _ h hb => h.acceptBeat hb

/-- Settles O46: DONE says that the recorder holds a finished job, VKIND that it was a verification, and a match is equality. -/
theorem validOutputsAreTheCompletedJobs : Obligations.ValidOutputsAreTheCompletedJobs := by
  intro r s ⟨_, _, done, finished, _, result, _, _⟩ (valid : s.done = true)
  obtain ⟨f, hf⟩ := Option.isSome_iff_exists.mp (done ▸ valid)
  obtain ⟨published, vkind, matched⟩ := finished f hf
  rw [published] at result
  refine ⟨f, hf, result, fun kind => ?_, fun _ trueMatch => ?_⟩
  · have verification : s.vkind = true := (Bool.and_eq_true_iff.mp kind).2
    obtain ⟨e, he⟩ := Option.isSome_iff_exists.mp (vkind ▸ verification)
    exact ⟨e, he, by rw [matched, he]⟩
  · cases he : f.expected with
    | none => simp [matched, he] at trueMatch
    | some e =>
      simp only [matched, he, verify, beq_iff_eq] at trueMatch
      exact ⟨e, rfl, result.trans trueMatch⟩

end Sys2Proof.Machine
end

section
/-! PROOFS. What commands, beats and port events leave unchanged (10_state.md R24, R25; 41_job_commands.md section 2; 60_exceptions.md R141 to
R146 and R151). -/

namespace Sys2Proof.Machine

/-! ### The commands -/

/-- No command touches the model's own two fields. -/
theorem exec_model_fields {i : Instr} {s t : State} (h : exec i s = .next t) :
    t.resetDone = s.resetDone ∧ t.inputs = s.inputs := by
  obtain ⟨-, rfl⟩ | ⟨-, -, rfl⟩ | ⟨-, b, -, rfl⟩ | ⟨-, -, rfl⟩ | ⟨-, e, -, rfl⟩ := exec_cases h
  · exact ⟨rfl, rfl⟩
  · exact ⟨raiseCmdError_resetDone s .noJob, raiseCmdError_inputs s .noJob⟩
  · exact ⟨rfl, rfl⟩
  · exact ⟨rfl, rfl⟩
  · exact ⟨rfl, rfl⟩

/-- The commands that end a job: they close it, with flags that depend on the command. -/
theorem exec_end_active {i : Instr} {s t : State} (hi : i = .endCompute ∨ ∃ e, i = .endVerify e) (active : s.phase = .active)
    (h : exec i s = .next t) : ∃ v m, t = closeJob v m s := by
  obtain rfl | ⟨e, rfl⟩ := hi
  · exact ⟨false, false, (Host.Outcome.next.inj ((exec_endCompute_active active).symm.trans h)).symm⟩
  · exact ⟨true, _, (Host.Outcome.next.inj ((exec_endVerify_active e active).symm.trans h)).symm⟩

/-- Settles O32: START opens a job, DATA feeds a byte, an end closes the job, and a command with no job open raises NO_JOB; each of these
leaves the listed fields. -/
theorem commandFrames : Obligations.CommandFrames := by
  intro i s t h
  obtain ⟨reset, inputs⟩ := exec_model_fields h
  refine ⟨reset, inputs, ?_, ?_, ?_, ?_⟩
  · rintro rfl
    obtain rfl := Host.Outcome.next.inj h
    exact openJob_result s
  · rintro ⟨b, rfl⟩ active
    obtain rfl := Host.Outcome.next.inj ((exec_data_active b active).symm.trans h)
    exact ⟨rfl, rfl, rfl, rfl, rfl, rfl, rfl⟩
  · intro hi active
    obtain ⟨v, m, rfl⟩ := exec_end_active hi active h
    exact ⟨rfl, rfl, rfl⟩
  · intro hi idle
    obtain rfl := Host.Outcome.next.inj ((exec_idle hi idle).symm.trans h)
    refine ⟨idle.symm, by simp, by simp, by simp, by simp, by simp, fun err => ?_⟩
    simp [err]

/-- Settles O34: such a command raises NO_JOB, on a clear error pair or a set one. -/
theorem commandsWithoutJobRaiseNoJob : Obligations.CommandsWithoutJobRaiseNoJob := by
  intro i s hi idle
  rw [exec_idle hi idle]
  exact ⟨fun clear => congrArg _ (raiseCmdError_of_err_clear .noJob clear),
    fun set => congrArg _ (raiseCmdError_of_err_set .noJob set)⟩

/-! ### The beats -/

theorem acceptBeat_of_ok {beat : Beat} {i : Instr} (h : decode beat = .ok i) (s : State) : acceptBeat beat s = exec i s := by
  rw [acceptBeat, h]

theorem acceptBeat_of_error {beat : Beat} {k : CmdError} (h : decode beat = .error k) (s : State) :
    acceptBeat beat s = .next (raiseCmdError k s) := by
  rw [acceptBeat, h]

theorem acceptBeat_resetDone {beat : Beat} {s t : State} (h : acceptBeat beat s = .next t) : t.resetDone = s.resetDone := by
  obtain ⟨i, -, he⟩ | ⟨k, -, rfl⟩ := acceptBeat_cases h
  · exact (exec_model_fields he).1
  · simp

/-- The beat ends an open job. -/
def EndsJob (beat : Beat) (s : State) : Prop :=
  s.phase = .active ∧ (decode beat = .ok .endCompute ∨ ∃ x, decode beat = .ok (.endVerify x))

/-- RESULT has one writer (10_state.md R24). -/
theorem acceptBeat_result {beat : Beat} {s t : State} (h : acceptBeat beat s = .next t) :
    (EndsJob beat s ∧ t.result = finalize s.crc) ∨ (¬ EndsJob beat s ∧ t.result = s.result) := by
  obtain ⟨i, hd, he⟩ | ⟨k, hd, rfl⟩ := acceptBeat_cases h
  · obtain ⟨rfl, rfl⟩ | ⟨hi, idle, rfl⟩ | ⟨active, b, rfl, rfl⟩ | ⟨active, rfl, rfl⟩ | ⟨active, e, rfl, rfl⟩ := exec_cases he
    · exact .inr ⟨by simp [EndsJob, hd], rfl⟩
    · exact .inr ⟨by simp [EndsJob, idle], by simp⟩
    · exact .inr ⟨by simp [EndsJob, hd], rfl⟩
    · exact .inl ⟨⟨active, .inl hd⟩, rfl⟩
    · exact .inl ⟨⟨active, .inr ⟨e, hd⟩⟩, rfl⟩
  · exact .inr ⟨by simp [EndsJob, hd], by simp⟩

theorem acceptBeat_result_of_endsJob {beat : Beat} {s t : State} (ends : EndsJob beat s) (h : acceptBeat beat s = .next t) :
    t.result = finalize s.crc := by
  obtain ⟨-, result⟩ | ⟨notEnds, -⟩ := acceptBeat_result h
  · exact result
  · exact absurd ends notEnds

/-- A set error pair is cleared by START and by no other beat, which leaves its code (60_exceptions.md R145, R146). -/
theorem acceptBeat_of_err_set {beat : Beat} {s t : State} (set : s.err = true) (h : acceptBeat beat s = .next t) :
    (decode beat = .ok .start ∧ t.err = false ∧ t.errcode = 0)
    ∨ (decode beat ≠ .ok .start ∧ t.err = true ∧ t.errcode = s.errcode) := by
  obtain ⟨i, hd, he⟩ | ⟨k, hd, rfl⟩ := acceptBeat_cases h
  · obtain ⟨rfl, rfl⟩ | ⟨hi, -, rfl⟩ | ⟨-, b, rfl, rfl⟩ | ⟨-, rfl, rfl⟩ | ⟨-, e, rfl, rfl⟩ := exec_cases he
    · exact .inl ⟨hd, rfl, rfl⟩
    · exact .inr ⟨by simpa [hd] using hi, by simp, by simp [set]⟩
    · exact .inr ⟨by simp [hd], set, rfl⟩
    · exact .inr ⟨by simp [hd], set, rfl⟩
    · exact .inr ⟨by simp [hd], set, rfl⟩
  · exact .inr ⟨by simp [hd], by simp, by simp [set]⟩

/-- With no job open every beat but a START raises some command error (60_exceptions.md R141). -/
theorem acceptBeat_idle {beat : Beat} {s : State} (idle : s.phase = .idle) (notStart : decode beat ≠ .ok .start) :
    ∃ k, acceptBeat beat s = .next (raiseCmdError k s) := by
  cases hd : decode beat with
  | ok i =>
    have hi : i ≠ .start := by
      rintro rfl
      exact notStart hd
    exact ⟨.noJob, by rw [acceptBeat_of_ok hd, exec_idle hi idle]⟩
  | error k => exact ⟨k, acceptBeat_of_error hd s⟩

/-- Settles O39: each of the beats raises a command error, which writes none of the fields. -/
theorem abortedJobNeverCompletes : Obligations.AbortedJobNeverCompletes := by
  intro k bs
  induction bs generalizing k with
  | nil =>
    intro s t _ h
    obtain rfl := Host.Outcome.next.inj h
    simp
  | cons b bs ih =>
    intro s t notStart h
    obtain ⟨k', raised⟩ := acceptBeat_idle (raiseCmdError_phase s k) (notStart b List.mem_cons_self)
    rw [runBeats, raised, andThen_next] at h
    simpa using ih k' (raiseCmdError k s) t (fun b hb => notStart b (List.mem_cons_of_mem _ hb)) h

/-! ### The port events -/

/-- Settles O37: of the port events a reset clears the pair, a beat clears it if it is START, and the others leave it. -/
theorem errorIsStickyUntilStartOrReset : Obligations.ErrorIsStickyUntilStartOrReset := by
  intro e s t h set
  obtain ⟨rfl, rfl⟩ | ⟨p, rfl, hr, rfl⟩ | ⟨p, rfl, hr, hv, rfl⟩ | ⟨p, rfl, hr, hv, -, hb⟩ := takeEvent_cases h
  · simp [set]
  · simp [hr, State.reset]
  · simp [set, hr, hv]
  · obtain ⟨start, err, errcode⟩ | ⟨notStart, err, errcode⟩ := acceptBeat_of_err_set set hb
    · simp [err, errcode, hv, start]
    · simp [err, errcode, hr, notStart]

/-- Settles O38: a reset, or a beat, and that one ends an open job. -/
theorem resultWrittenOnlyByEndOfJob : Obligations.ResultWrittenOnlyByEndOfJob := by
  intro e s t h changed
  obtain ⟨-, rfl⟩ | ⟨p, rfl, hr, -⟩ | ⟨p, -, -, -, rfl⟩ | ⟨p, rfl, -, hv, -, hb⟩ := takeEvent_cases h
  · exact absurd rfl changed
  · exact ⟨p, rfl, .inl hr⟩
  · exact absurd rfl changed
  · obtain ⟨⟨active, ends⟩, result⟩ | ⟨-, result⟩ := acceptBeat_result hb
    · exact ⟨p, rfl, .inr ⟨hv, active, result, ends⟩⟩
    · exact absurd result changed

/-- Settles O55: the event's outcome is put back at the one place it was delivered to. -/
theorem instancesAreIndependent : Obligations.InstancesAreIndependent := by
  intro k j e ms ns h hj
  unfold Platform.deliver at h
  split at h
  · obtain ⟨s, -, put⟩ := andThen_eq_next h
    obtain rfl := Host.Outcome.next.inj put
    exact List.getElem?_set_ne hj.symm
  · obtain rfl := Host.Outcome.next.inj h
    rfl

/-! ### The running register while no job is open -/

/-- States that agree since a START and in RESULT go on to agree in RESULT: its one writer publishes the agreed register. -/
theorem State.AgreesSinceStart.acceptBeat_result_eq {s₁ s₂ t₁ t₂ : State} {beat : Beat} (h : s₁.AgreesSinceStart s₂)
    (same : s₁.result = s₂.result) (h₁ : Machine.acceptBeat beat s₁ = .next t₁) (h₂ : Machine.acceptBeat beat s₂ = .next t₂) :
    t₁.result = t₂.result := by
  have ends : EndsJob beat s₁ ↔ EndsJob beat s₂ := by rw [EndsJob, EndsJob, h.phase]
  obtain ⟨e₁, r₁⟩ | ⟨e₁, r₁⟩ := acceptBeat_result h₁ <;> obtain ⟨e₂, r₂⟩ | ⟨e₂, r₂⟩ := acceptBeat_result h₂
  · obtain ⟨active, -⟩ := e₁
    rw [r₁, r₂, h.crc active]
  · exact absurd (ends.mp e₁) e₂
  · exact absurd (ends.mpr e₂) e₁
  · rw [r₁, r₂, same]

theorem State.AgreesSinceStart.runBeats_outputs {s₁ s₂ : State} (bs : List Beat) (h : s₁.AgreesSinceStart s₂)
    (same : s₁.result = s₂.result) :
    ∃ t₁ t₂, Machine.runBeats bs s₁ = .next t₁ ∧ Machine.runBeats bs s₂ = .next t₂
      ∧ t₁.statusOut = t₂.statusOut ∧ t₁.resultOut = t₂.resultOut := by
  induction bs generalizing s₁ s₂ with
  | nil => exact ⟨s₁, s₂, rfl, rfl, h.statusOut_eq, same⟩
  | cons beat bs ih =>
    obtain ⟨u₁, u₂, step₁, step₂, agree⟩ := h.acceptBeat beat
    simpa only [Machine.runBeats, step₁, step₂, andThen_next] using ih agree (h.acceptBeat_result_eq same step₁ step₂)

/-- With no job open the running register is not compared. -/
theorem idle_agreesSinceStart {s : State} (idle : s.phase = .idle) (c : Word) : s.AgreesSinceStart { s with crc := c } where
  phase := rfl
  crc active := absurd (idle.symm.trans active) (by simp)
  result _ := rfl
  done := rfl
  vkind := rfl
  matched := rfl
  err := rfl
  errcode := rfl

/-- Settles O43: the two states agree but for a register that no job uses, and START overwrites it before one does. -/
theorem idleRunningRegisterIsHidden : Obligations.IdleRunningRegisterIsHidden :=
  fun _ c bs idle => (idle_agreesSinceStart idle c).runBeats_outputs bs rfl

end Sys2Proof.Machine
end

section
/-! PROOFS. Steps and port events: the dispatch of an offered beat, the queue of beats, idle edges, and the time before the first reset
(10_state.md R39; 20_memory.md R46; 41_job_commands.md R110; 70_reset_and_hazards.md R173). -/

namespace Sys2Proof.Machine

/-! ### Before the first reset -/

/-- Settles O24: the three events, and reads guarded by the same flag. -/
theorem beatsBeforeResetAreRefused : Obligations.BeatsBeforeResetAreRefused := by
  intro s beat
  refine ⟨fun unreached => ?_, ⟨_, rfl, rfl⟩, fun pins hr => ?_⟩
  · have refused : takeEvent (offerEvent beat) s = .refused .beforeFirstReset := by
      simp [offerEvent, takeEvent, takeEdge, offerBeat, unreached]
    exact ⟨refused, by simp [State.readResult, unreached], by simp [State.readStatus, unreached]⟩
  · exact ⟨applyReset s, takeEdge_of_rst hr s, rfl, rfl, congrArg some reset_statusOut⟩

/-! ### One step -/

theorem step_of_inputs {s : State} {e : PortEvent} {rest : List PortEvent} (h : s.inputs = e :: rest) :
    step s = takeEvent e { s with inputs := rest } := by
  rw [step, h]

theorem takeEvent_offerEvent {s : State} (reset : s.resetDone = true) (beat : Beat) :
    takeEvent (offerEvent beat) s = acceptBeat beat s := by
  simp [offerEvent, takeEvent, takeEdge, offerBeat, reset]

theorem step_offerEvent {s : State} {beat : Beat} {rest : List PortEvent} (reset : s.resetDone = true)
    (h : s.inputs = offerEvent beat :: rest) : step s = acceptBeat beat { s with inputs := rest } :=
  (step_of_inputs h).trans (takeEvent_offerEvent (s := { s with inputs := rest }) reset beat)

theorem withFetchWord_toNat (s : State) (beat : Beat) :
    s.withFetchWord 40 beat.toNat = { s with inputs := offerEvent beat :: s.inputs } := by
  rw [State.withFetchWord, beatOfTableWord_toNat]

/-- Settles O25: an offered beat is accepted, and accepting it runs what it decodes to. -/
theorem stepRunsTheDecodedCommand : Obligations.StepRunsTheDecodedCommand := by
  refine ⟨fun s beat rest i reset next hd => ?_, fun s beat rest k reset next hd => ?_, fun s i reset => ?_⟩
  · rw [step_offerEvent reset next, acceptBeat_of_ok hd]
  · rw [step_offerEvent reset next, acceptBeat_of_error hd]
  · have placed : (s.withFetchWord 40 (encode i).toNat).inputs = offerEvent (encode i) :: s.inputs := by
      rw [withFetchWord_toNat]
    rw [step_offerEvent (by rw [withFetchWord_toNat]; exact reset) placed, withFetchWord_toNat, acceptBeat_encode]

/-- Settles O26: such an edge keeps the state, and so does an empty queue. -/
theorem idleEdgesChangeNothing : Obligations.IdleEdgesChangeNothing := by
  refine fun s cmd rest => ⟨fun next => ?_, fun empty => ?_⟩
  · rw [step_of_inputs next]
    rfl
  · rw [step, empty]

/-! ### A queue of beats -/

/-- What is queued at the port is nothing to a beat: it is carried along. -/
theorem raiseCmdError_withInputs (k : CmdError) (s : State) (rest : List PortEvent) :
    raiseCmdError k { s with inputs := rest } = { raiseCmdError k s with inputs := rest } := by
  cases he : s.err <;> simp [raiseCmdError, latchError, he]

theorem exec_withInputs {i : Instr} {s t : State} (h : exec i s = .next t) (rest : List PortEvent) :
    exec i { s with inputs := rest } = .next { t with inputs := rest } := by
  obtain ⟨rfl, rfl⟩ | ⟨hi, idle, rfl⟩ | ⟨active, b, rfl, rfl⟩ | ⟨active, rfl, rfl⟩ | ⟨active, e, rfl, rfl⟩ := exec_cases h
  · rfl
  · exact (exec_idle (s := { s with inputs := rest }) hi idle).trans (congrArg _ (raiseCmdError_withInputs .noJob s rest))
  · exact exec_data_active b active
  · exact exec_endCompute_active active
  · exact exec_endVerify_active e active

theorem acceptBeat_withInputs {beat : Beat} {s t : State} (h : acceptBeat beat s = .next t) (rest : List PortEvent) :
    acceptBeat beat { s with inputs := rest } = .next { t with inputs := rest } := by
  obtain ⟨i, hd, he⟩ | ⟨k, hd, rfl⟩ := acceptBeat_cases h
  · rw [acceptBeat_of_ok hd, exec_withInputs he]
  · rw [acceptBeat_of_error hd, raiseCmdError_withInputs]

theorem run_succ_of_step (M : Host.Core) {s t : M.State} (h : M.step s = .next t) (n : Nat) : M.run (n + 1) s = M.run n t := by
  rw [Host.Core.run, h]

/-- Settles O27: the first beat is accepted by the first step, whatever else is queued, and the run goes on with the queue behind it. -/
theorem stepsRunOfferedBeatsInOrder : Obligations.StepsRunOfferedBeatsInOrder := by
  intro bs
  induction bs with
  | nil =>
    intro s rest _ queued
    simp only [List.map_nil, List.nil_append] at queued
    rw [← queued]
    rfl
  | cons b bs ih =>
    intro s rest reset queued
    obtain ⟨t, accepted⟩ := acceptBeat_answers_next b s
    have next : s.inputs = offerEvent b :: (bs.map offerEvent ++ rest) := queued
    have first : step s = .next { t with inputs := bs.map offerEvent ++ rest } := by
      rw [step_offerEvent reset next, acceptBeat_withInputs accepted]
    have reset' : t.resetDone = true := (acceptBeat_resetDone accepted).trans reset
    have beats : runBeats (b :: bs) { s with inputs := rest } = runBeats bs { t with inputs := rest } := by
      rw [runBeats, acceptBeat_withInputs accepted, andThen_next]
    rw [beats]
    exact (run_succ_of_step core first bs.length).trans (ih _ rest reset' rfl)

end Sys2Proof.Machine
end

section
/-! PROOFS. The clocked port keeps its promises, accepts on ready and valid, and refines the run of the beats (20_memory.md R46 to R48;
70_reset_and_hazards.md R170 to R172, R176, R179). -/

namespace Sys2Proof.Machine

/-! ### The port's promises -/

theorem resetEdge_inv (latency : Nat) (pace : Pace) (t : Clocked) : (t.resetEdge latency pace).Inv latency :=
  ⟨Nat.min_le_right pace.busy latency, fun _ => resetEdge_shown latency pace t⟩

theorem afterBeat_wait_le (latency : Nat) (pace : Pace) (t : Clocked) (s : State) :
    (t.afterBeat latency pace s).wait ≤ latency - 1 := Nat.min_le_right pace.busy (latency - 1)

/-- A beat with no busy window shows its writes at once (20_memory.md R47). -/
theorem afterBeat_inv (latency : Nat) (pace : Pace) (t : Clocked) (s : State) : (t.afterBeat latency pace s).Inv latency := by
  refine ⟨(afterBeat_wait_le latency pace t s).trans (Nat.sub_le latency 1), fun noWindow => ?_⟩
  have cut : min pace.busy (latency - 1) = 0 := noWindow
  simp [Clocked.afterBeat, cut]

/-- The last busy cycle shows the writes (20_memory.md R47). -/
theorem busyEdge_inv {latency : Nat} {t : Clocked} (h : t.Inv latency) (pace : Pace) : (t.busyEdge pace).Inv latency := by
  obtain ⟨bound, -⟩ := h
  refine ⟨(Nat.sub_le t.wait 1).trans bound, fun ready => ?_⟩
  have last : t.wait ≤ 1 := Nat.sub_eq_zero_iff_le.mp ready
  simp [Clocked.busyEdge, last]

/-- Settles O48: a reset and an accepted beat set the window anew, and a busy cycle counts it down. -/
theorem clockedEdgeKeepsPortInvariant : Obligations.ClockedEdgeKeepsPortInvariant := by
  intro latency pace pins t u h he
  obtain ⟨-, rfl⟩ | ⟨-, -, -, s, -, rfl⟩ | ⟨-, -, -, rfl⟩ | ⟨-, -, rfl⟩ := edge_cases he
  · exact resetEdge_inv latency pace t
  · exact afterBeat_inv latency pace t s
  · exact h
  · exact busyEdge_inv h pace

/-- Settles O49: the initial block is not busy and shows the reset state it is in. -/
theorem clockedResetMeetsPortInvariant : Obligations.ClockedResetMeetsPortInvariant :=
  fun latency => ⟨⟨Nat.zero_le latency, fun _ => rfl⟩, rfl⟩

/-! ### When a beat is accepted -/

theorem cmdReady_iff (t : Clocked) (rst : Bool) : t.cmdReady rst = true ↔ t.wait = 0 ∧ rst = false := by
  simp [Clocked.cmdReady]

theorem offerBeat_of_resetDone {s : State} (reset : s.resetDone = true) (beat : Beat) : offerBeat beat s = acceptBeat beat s := by
  rw [offerBeat, if_pos reset]

/-- Settles O47: of the four kinds of edge, one accepts a beat, one resets, and two keep the block's state. -/
theorem clockedPortAcceptsOnReadyValid : Obligations.ClockedPortAcceptsOnReadyValid := by
  intro latency pace pins t u reset he
  rw [Bool.eq_false_iff, ne_eq, cmdReady_iff]
  obtain ⟨hr, rfl⟩ | ⟨hr, hw, hv, s, hs, rfl⟩ | ⟨hr, hw, hv, rfl⟩ | ⟨hr, hw, rfl⟩ := edge_cases he
  · simp [hr, Clocked.resetEdge]
  · rw [offerBeat_of_resetDone reset] at hs
    simp [hr, hw, hv, hs, Clocked.afterBeat]
  · simp [hr, hv]
  · simp [hr, hw, Clocked.busyEdge]

/-! ### One edge of a host that holds its beats -/

variable {latency : Nat} {pace : Pace} {paces : List Pace} {t : Clocked}

theorem drive_ready_nil (ready : t.wait = 0) : t.drive latency (pace :: paces) [] = t.drive latency paces [] := by
  simp [Clocked.drive, Clocked.edge, ready]

theorem drive_busy (busy : t.wait ≠ 0) (bs : List Beat) :
    t.drive latency (pace :: paces) bs = (t.busyEdge pace).drive latency paces bs := by
  cases bs with
  | nil => simp [Clocked.drive, Clocked.edge, busy]
  | cons b bs => simp [Clocked.drive, Clocked.edge, busy, Clocked.cmdReady]

theorem drive_ready_cons (ready : t.wait = 0) (reset : t.arch.resetDone = true) {b : Beat} {s : State}
    (accepted : acceptBeat b t.arch = .next s) (bs : List Beat) :
    t.drive latency (pace :: paces) (b :: bs) = (t.afterBeat latency pace s).drive latency paces bs := by
  simp [Clocked.drive, Clocked.edge, ready, Clocked.cmdReady, offerBeat_of_resetDone reset, accepted]

@[simp] theorem busyEdge_wait (pace : Pace) (t : Clocked) : (t.busyEdge pace).wait = t.wait - 1 := rfl

/-! ### A whole run of the host -/

/-- Whatever the pace, the run goes on, what it has got rid of are the first of the beats, executed in order, and the port's promises hold
after it if they held before, or if it has accepted a beat since. -/
theorem drive_runs_beats (latency : Nat) (paces : List Pace) (bs : List Beat) (t : Clocked) (reset : t.arch.resetDone = true) :
    ∃ sent rest u, t.drive latency paces bs = .next (rest, u) ∧ bs = sent ++ rest ∧ runBeats sent t.arch = .next u.arch
      ∧ (t.Inv latency ∨ sent ≠ [] → u.Inv latency) := by
  induction paces generalizing bs t with
  | nil => exact ⟨[], bs, t, by cases bs <;> rfl, rfl, rfl, fun h => h.resolve_right (by simp)⟩
  | cons pace paces ih =>
    by_cases ready : t.wait = 0
    · cases bs with
      | nil =>
        rw [drive_ready_nil ready]
        exact ih [] t reset
      | cons b bs =>
        obtain ⟨s, accepted⟩ := acceptBeat_answers_next b t.arch
        obtain ⟨sent, rest, u, run, split, beats, inv⟩ :=
          ih bs (t.afterBeat latency pace s) ((acceptBeat_resetDone accepted).trans reset)
        refine ⟨b :: sent, rest, u, by rw [drive_ready_cons ready reset accepted, run], by rw [split, List.cons_append], ?_,
          fun _ => inv (.inl (afterBeat_inv latency pace t s))⟩
        rw [runBeats, accepted]
        exact beats
    · rw [drive_busy ready]
      obtain ⟨sent, rest, u, run, split, beats, inv⟩ := ih bs (t.busyEdge pace) reset
      exact ⟨sent, rest, u, run, split, beats, fun h => inv (h.imp_left fun h => busyEdge_inv h pace)⟩

theorem shown_of_cmdReady {u : Clocked} (h : u.Inv latency) (ready : u.cmdReady false = true) : u.shown = u.arch := by
  obtain ⟨-, shown⟩ := h
  exact shown ((cmdReady_iff u false).mp ready).1

/-- Settles O51: the run of the host, with the port's promises read at its end. -/
theorem clockedPortRefinesBeats : Obligations.ClockedPortRefinesBeats := by
  intro latency paces bs rest t u reset inv run
  obtain ⟨sent, rest', u', run', split, beats, keeps⟩ := drive_runs_beats latency paces bs t reset
  obtain ⟨rfl, rfl⟩ := Prod.mk.inj (Host.Outcome.next.inj (run'.symm.trans run))
  exact ⟨⟨sent, split, beats⟩, shown_of_cmdReady (keeps (.inl inv))⟩

/-! ### The outcome of a job, by either sign -/

/-- While the host has nothing to send, the outputs stay as they were or catch up with the block's state, which stays. -/
theorem drive_nil_shown {rest : List Beat} {u : Clocked} (run : t.drive latency paces [] = .next (rest, u)) :
    u.shown = t.shown ∨ u.shown = t.arch := by
  induction paces generalizing t with
  | nil =>
    obtain ⟨-, rfl⟩ := Prod.mk.inj (Host.Outcome.next.inj run)
    exact .inl rfl
  | cons pace paces ih =>
    by_cases ready : t.wait = 0
    · rw [drive_ready_nil ready] at run
      exact ih run
    · rw [drive_busy ready] at run
      obtain kept | caught := ih run
      · rw [kept]
        exact busyEdge_shown_cases pace t
      · exact .inr caught

theorem statusOut_active (s : State) : s.statusOut.getLsbD 0 = s.phase.isActive := by
  obtain ⟨active, -⟩ := statusLayout s
  exact active

/-- Settles O52: the outputs show the open job or its outcome, and each sign rules the open job out. -/
theorem eitherSignShowsTheOutcome : Obligations.EitherSignShowsTheOutcome := by
  intro latency pace paces beat t u reset ready shows active hend run sign
  obtain ⟨sent, rest, u', run', split, beats, keeps⟩ := drive_runs_beats latency (pace :: paces) [beat] t reset
  obtain ⟨rfl, rfl⟩ := Prod.mk.inj (Host.Outcome.next.inj (run'.symm.trans run))
  obtain rfl : [beat] = sent := split.trans (List.append_nil sent)
  obtain ⟨s, accepted⟩ := acceptBeat_answers_next beat t.arch
  obtain rfl : s = u'.arch := by simpa [runBeats, accepted] using beats
  have shown : u'.shown = u'.arch := by
    obtain again | ⟨-, closed⟩ := sign
    · exact shown_of_cmdReady (keeps (.inr (by simp))) again
    · rw [drive_ready_cons ready reset accepted] at run
      obtain kept | caught := drive_nil_shown run
      · obtain old | new := afterBeat_shown_cases latency pace t u'.arch
        · rw [Clocked.statusPin, kept, old, shows, statusOut_active, active] at closed
          cases closed
        · exact kept.trans new
      · exact caught
  refine ⟨?_, by rw [Clocked.statusPin, shown], accepted⟩
  rw [Clocked.resultPin, shown]
  exact acceptBeat_result_of_endsJob ⟨active, hend⟩ accepted

/-! ### How long it takes -/

/-- Every beat costs at most `latency` edges, its own among them, and the last one's busy window may be left over in part. -/
theorem drive_sends_all (paces : List Pace) (bs : List Beat) (t : Clocked) {slack : Nat} (hs : slack < latency)
    (reset : t.arch.resetDone = true) (enough : t.wait + bs.length * latency ≤ paces.length + slack) :
    ∃ u, t.drive latency paces bs = .next ([], u) ∧ u.wait ≤ slack := by
  induction paces generalizing bs t with
  | nil =>
    cases bs with
    | nil => exact ⟨t, rfl, by simpa using enough⟩
    | cons b bs =>
      simp only [List.length_cons, List.length_nil, Nat.succ_mul] at enough
      omega
  | cons pace paces ih =>
    by_cases ready : t.wait = 0
    · cases bs with
      | nil =>
        rw [drive_ready_nil ready]
        exact ih [] t reset (by simp [ready])
      | cons b bs =>
        obtain ⟨s, accepted⟩ := acceptBeat_answers_next b t.arch
        rw [drive_ready_cons ready reset accepted]
        have window := afterBeat_wait_le latency pace t s
        simp only [List.length_cons, Nat.succ_mul] at enough
        exact ih bs _ ((acceptBeat_resetDone accepted).trans reset) (by omega)
    · rw [drive_busy ready]
      simp only [List.length_cons] at enough
      exact ih bs (t.busyEdge pace) reset (by rw [busyEdge_wait]; omega)

/-- A host that gets rid of all its beats has had them executed in order. -/
theorem runBeats_of_drive {bs : List Beat} {u : Clocked} (reset : t.arch.resetDone = true)
    (run : t.drive latency paces bs = .next ([], u)) :
    runBeats bs t.arch = .next u.arch ∧ (t.Inv latency ∨ bs ≠ [] → u.Inv latency) := by
  obtain ⟨sent, rest, u', run', split, beats, keeps⟩ := drive_runs_beats latency paces bs t reset
  obtain ⟨rfl, rfl⟩ := Prod.mk.inj (Host.Outcome.next.inj (run'.symm.trans run))
  obtain rfl : bs = sent := split.trans (List.append_nil sent)
  exact ⟨beats, keeps⟩

/-- Settles O53: at most `latency` busy edges come first, and the beat's own window need not have passed. -/
theorem offeredBeatIsAcceptedInTime : Obligations.OfferedBeatIsAcceptedInTime := by
  intro latency paces beat t positive reset ⟨bound, _⟩ enough
  obtain ⟨u, run, -⟩ := drive_sends_all (latency := latency) (slack := latency - 1) paces [beat] t (by omega) reset
    (by simp only [List.length_singleton]; omega)
  obtain ⟨beats, -⟩ := runBeats_of_drive reset run
  obtain ⟨s, accepted⟩ := acceptBeat_answers_next beat t.arch
  refine ⟨u, run, ?_⟩
  simpa [runBeats, accepted] using beats

/-- A job's beats held at a ready block are executed and shown once each has had `latency` edges. -/
theorem drive_shows_job {bs : List Beat} (sends : bs ≠ []) (positive : 0 < latency) (reset : t.arch.resetDone = true)
    (ready : t.wait = 0) (enough : bs.length * latency ≤ paces.length) :
    ∃ u, t.drive latency paces bs = .next ([], u) ∧ runBeats bs t.arch = .next u.arch ∧ u.shown = u.arch
      ∧ u.cmdReady false = true := by
  obtain ⟨u, run, window⟩ := drive_sends_all (slack := 0) paces bs t positive reset (by omega)
  obtain ⟨beats, keeps⟩ := runBeats_of_drive reset run
  have again : u.cmdReady false = true := (cmdReady_iff u false).mpr ⟨Nat.le_zero.mp window, rfl⟩
  exact ⟨u, run, beats, shown_of_cmdReady (keeps (.inr sends)) again, again⟩

theorem beatsOf_length (is : List Instr) : (beatsOf is).length = is.length := List.length_map encode

theorem computeJob_length (d : List Byte) : (beatsOf (computeJob d)).length = d.length + 2 := by
  simp [beatsOf_length, computeJob]

theorem verifyJob_length (d : List Byte) (e : Word) : (beatsOf (verifyJob d e)).length = d.length + 2 := by
  simp [beatsOf_length, verifyJob]

theorem ne_nil_of_length {bs : List Beat} {n : Nat} (h : bs.length = n + 2) : bs ≠ [] := by
  rintro rfl
  simp at h

/-- Settles O54: a job of n bytes is n + 2 beats, and its outcome is the transaction level's. -/
theorem jobCompletesWithinLinearTime : Obligations.JobCompletesWithinLinearTime := by
  intro latency paces d x t positive reset ready enough
  refine ⟨?_, ?_⟩
  · have length := computeJob_length d
    obtain ⟨u, run, beats, shown, again⟩ :=
      drive_shows_job (ne_nil_of_length length) positive reset ready (length ▸ enough)
    obtain ⟨t', beats', -, -, -, -, -, -, -, result, status⟩ := computeJobGivesCrc t.arch d
    obtain rfl := Host.Outcome.next.inj (beats'.symm.trans beats)
    exact ⟨u, run, by rw [Clocked.resultPin, shown, result], by rw [Clocked.statusPin, shown, status], again⟩
  · have length := verifyJob_length d x
    obtain ⟨u, run, beats, shown, again⟩ :=
      drive_shows_job (ne_nil_of_length length) positive reset ready (length ▸ enough)
    obtain ⟨t', beats', result, -, -, -, -, -, -, same, differ⟩ := verifyJobGivesCrcAndComparison t.arch d x
    obtain rfl := Host.Outcome.next.inj (beats'.symm.trans beats)
    refine ⟨u, run, by rw [Clocked.resultPin, shown, resultOut_eq, result], ?_, again⟩
    rw [Clocked.statusPin, shown]
    split
    · next verdict => exact same (beq_iff_eq.mp verdict)
    · next verdict => exact differ ((verify_eq_false_iff d x).mp (Bool.eq_false_of_not_eq_true verdict))

end Sys2Proof.Machine
end

section
/-! PROOFS. The assembler's lines (30_encoding.md R68, R69). -/

namespace Sys2Proof.Machine

open Asm

theorem assemble_of_wf {i : Item} (h : i.wf = true) : i.assemble = some i.beats := by
  rw [Item.assemble, if_pos h]

theorem assemble_of_not_wf {i : Item} (h : ¬ i.wf = true) : i.assemble = none := by
  rw [Item.assemble, if_neg h]

theorem byteInRange_iff (n : Nat) : byteInRange n = true ↔ n < 256 := decide_eq_true_iff

theorem wordInRange_iff (n : Nat) : wordInRange n = true ↔ n < 2 ^ 32 := decide_eq_true_iff

theorem beatInRange_iff (n : Nat) : beatInRange n = true ↔ n < 2 ^ 40 := decide_eq_true_iff

theorem crc_wf_iff (l : List Nat) : (Item.crc l).wf = true ↔ ∀ n ∈ l, n < 256 := by
  simp only [Item.wf, List.all_eq_true, byteInRange_iff]

/-- Settles O56: a line in range is the compute job of its bytes. -/
theorem assembledCrcLineComputes : Obligations.AssembledCrcLineComputes := by
  refine ⟨fun l s inRange => ?_, fun l ⟨n, mem, beyond⟩ => ?_⟩
  · obtain ⟨t, run, -, -, -, -, -, -, -, result, -⟩ := computeJobGivesCrc s (toBytes l)
    exact ⟨_, t, assemble_of_wf ((crc_wf_iff l).mpr inRange), by rw [Item.beats, computeJob_length, toBytes, List.length_map],
      run, result⟩
  · exact assemble_of_not_wf fun wf => absurd ((crc_wf_iff l).mp wf n mem) (Nat.not_lt.mpr beyond)

/-! ### The beats as numbers -/

/-- OP stands above the 32 bits of ARG (30_encoding.md R60). -/
theorem mkBeat_toNat (op : Byte) (arg : Word) : (mkBeat op arg).toNat = op.toNat * 2 ^ 32 + arg.toNat := by
  have high : op.toNat * 2 ^ 32 < 2 ^ 40 := by have := op.isLt; omega
  have low : arg.toNat < 2 ^ 40 := by have := arg.isLt; omega
  rw [mkBeat, BitVec.toNat_or, BitVec.toNat_shiftLeft, BitVec.toNat_setWidth, BitVec.toNat_setWidth,
    Nat.mod_eq_of_lt (show op.toNat < 2 ^ 40 by omega), Nat.mod_eq_of_lt low, Nat.shiftLeft_eq, Nat.mod_eq_of_lt high,
    ← Nat.shiftLeft_eq, Nat.shiftLeft_add_eq_or_of_lt arg.isLt]

theorem mkBeat_eq_ofNat {op : Byte} {arg : Word} {v : Nat} (h : op.toNat * 2 ^ 32 + arg.toNat = v) :
    mkBeat op arg = BitVec.ofNat 40 v := by
  rw [← h, ← mkBeat_toNat, BitVec.ofNat_toNat, BitVec.setWidth_eq]

theorem encode_data_ofNat {n : Nat} (h : n < 256) : encode (.data (BitVec.ofNat 8 n)) = BitVec.ofNat 40 (0x0200000000 + n) := by
  refine mkBeat_eq_ofNat ?_
  have byte : (zext32 (BitVec.ofNat 8 n)).toNat = n := by
    rw [zext32, BitVec.toNat_setWidth, BitVec.toNat_ofNat, Nat.mod_eq_of_lt h, Nat.mod_eq_of_lt (by omega)]
  have op : (0x02 : Byte).toNat * 2 ^ 32 = 0x0200000000 := by decide
  rw [argument, byte, opcode, op]

theorem encode_endVerify_ofNat {n : Nat} (h : n < 2 ^ 32) :
    encode (.endVerify (BitVec.ofNat 32 n)) = BitVec.ofNat 40 (0x0400000000 + n) := by
  refine mkBeat_eq_ofNat ?_
  have op : (0x04 : Byte).toNat * 2 ^ 32 = 0x0400000000 := by decide
  rw [argument, BitVec.toNat_ofNat, Nat.mod_eq_of_lt h, opcode, op]

/-- Settles O57: a line in range is its command's encoding, and one out of range fails its check. -/
theorem assemblerEmitsTheListedBeats : Obligations.AssemblerEmitsTheListedBeats := by
  refine ⟨by decide, by decide, fun n h => ?_, fun n h => ?_, fun n h => ?_, fun n h => ?_, fun n h => ?_, fun n h => ?_⟩
  · rw [assemble_of_wf (i := .data n) ((byteInRange_iff n).mpr h), ← encode_data_ofNat h]
    rfl
  · rw [assemble_of_wf (i := .endVerify n) ((wordInRange_iff n).mpr h), ← encode_endVerify_ofNat h]
    rfl
  · exact assemble_of_wf (i := .beat n) ((beatInRange_iff n).mpr h)
  · exact assemble_of_not_wf (i := .data n) (mt (byteInRange_iff n).mp (Nat.not_lt.mpr h))
  · exact assemble_of_not_wf (i := .endVerify n) (mt (wordInRange_iff n).mp (Nat.not_lt.mpr h))
  · exact assemble_of_not_wf (i := .beat n) (mt (beatInRange_iff n).mp (Nat.not_lt.mpr h))

end Sys2Proof.Machine
end

section
/-! PROOFS. The normal form of the CRC register, MSB first, mirrors the reflected one (40_crc_function.md R93). -/

namespace Sys2Proof.Machine

@[simp] theorem reflect_reflect {n : Nat} (v : BitVec n) : reflect (reflect v) = v := by
  apply BitVec.eq_of_getLsbD_eq
  intro i h
  rw [reflect_getLsbD _ h, reflect_getLsbD _ (by omega), show n - 1 - (n - 1 - i) = i by omega]

theorem reflect_xor {n : Nat} (v w : BitVec n) : reflect (v ^^^ w) = reflect v ^^^ reflect w := by
  apply BitVec.eq_of_getLsbD_eq
  intro i h
  simp only [reflect_getLsbD _ h, BitVec.getLsbD_xor]

/-- A bit step to the left is one to the right in the mirror (R81, R84). -/
theorem reflect_stepBitN (c : Word) : reflect (stepBitN c) = stepBit (reflect c) := by
  apply BitVec.eq_of_getLsbD_eq
  intro i h
  rw [reflect_getLsbD _ h, stepBitN_getLsbD _ _ (by omega), stepBit_getLsbD, ← reflect_npoly, reflect_getLsbD _ h,
    reflect_getLsbD c (show 0 < 32 by omega)]
  congr 1
  by_cases last : i = 31
  · rw [BitVec.getLsbD_of_ge (reflect c) (i + 1) (by omega)]
    simp [last]
  · rw [reflect_getLsbD c (by omega), show 32 - 1 - (i + 1) = 32 - 1 - i - 1 by omega]
    simp [show 0 < 32 - 1 - i by omega]

theorem reflect_stepBitN_iterate (n : Nat) (c : Word) : reflect (stepBitN^[n] c) = stepBit^[n] (reflect c) := by
  induction n generalizing c with
  | zero => rfl
  | succ n ih => rw [Function.iterate_succ_apply, Function.iterate_succ_apply, ih, reflect_stepBitN]

/-- The byte as it enters the normal-form register: reflected, in bits 31:24 (R93). -/
theorem topByte_getLsbD (b : Byte) {i : Nat} (h : i < 32) :
    (zext32 (reflect b) <<< 24).getLsbD i = (decide (24 ≤ i) && b.getLsbD (31 - i)) := by
  rw [BitVec.getLsbD_shiftLeft, zext32_getLsbD]
  by_cases top : 24 ≤ i
  · rw [reflect_getLsbD b (by omega), show 8 - 1 - (i - 24) = 31 - i by omega]
    simp [h, top]
  · simp [h, top]

theorem reflect_topByte (b : Byte) : reflect (zext32 (reflect b) <<< 24) = zext32 b := by
  apply BitVec.eq_of_getLsbD_eq
  intro i h
  rw [reflect_getLsbD _ h, topByte_getLsbD b (by omega), zext32_getLsbD, show 31 - (32 - 1 - i) = i by omega]
  by_cases low : i < 8
  · simp [show 24 ≤ 32 - 1 - i by omega]
  · simp [BitVec.getLsbD_of_ge b i (by omega)]

theorem reflect_updN (c : Word) (b : Byte) : reflect (updN c b) = upd (reflect c) b := by
  rw [updN, reflect_stepBitN_iterate, reflect_xor, reflect_topByte, upd]

theorem reflect_runCrcN (c : Word) (d : List Byte) : reflect (runCrcN c d) = runCrc (reflect c) d := by
  induction d generalizing c with
  | nil => rfl
  | cons b d ih => rw [runCrcN, ih, reflect_updN, runCrc]

theorem reflect_init : reflect Config.init = Config.init := by decide +kernel

/-- Settles O6: INIT is its own mirror image, and each byte keeps the two registers mirrored. -/
theorem normalFormEqualsReflectedForm : Obligations.NormalFormEqualsReflectedForm := by
  intro d
  have mirrored : reflect (runCrcN Config.init d) = runCrc Config.init d := by rw [reflect_runCrcN, reflect_init]
  exact ⟨by rw [crc32N, mirrored]; rfl, mirrored.symm⟩

end Sys2Proof.Machine
end

section
/-! PROOFS. The CRC as the remainder of a division by the generator polynomial (40_crc_function.md R80, R93): a bit step of the normal form is a
multiplication by x, reduced. -/

namespace Sys2Proof.Poly

open Polynomial Machine

/-! ### Coefficients -/

@[simp] theorem coeffOf_false : coeffOf false = 0 := rfl

theorem coeffOf_xor (a b : Bool) : coeffOf (a ^^ b) = coeffOf a + coeffOf b := by
  cases a <;> cases b <;> decide

theorem coeffOf_and (a b : Bool) : coeffOf (a && b) = coeffOf a * coeffOf b := by
  cases a <;> cases b <;> decide

/-- Past bit 31 a word reads 0, so the equation needs no bound. -/
theorem coeff_ofWord (w : Word) (i : Nat) : (ofWord w).coeff i = coeffOf (w.getLsbD i) := by
  simp only [ofWord, finsetSum_coeff, coeff_C_mul, coeff_X_pow, mul_ite, mul_one, mul_zero, Finset.sum_ite_eq,
    Finset.mem_range]
  split
  · rfl
  · rw [BitVec.getLsbD_of_ge w i (by omega), coeffOf_false]

theorem ofWord_xor (v w : Word) : ofWord (v ^^^ w) = ofWord v + ofWord w := by
  ext i
  rw [coeff_add, coeff_ofWord, coeff_ofWord, coeff_ofWord, BitVec.getLsbD_xor, coeffOf_xor]

theorem degree_ofWord_lt (w : Word) : (ofWord w).degree < 32 := by
  refine (degree_lt_iff_coeff_zero _ 32).mpr fun i h => ?_
  rw [coeff_ofWord, BitVec.getLsbD_of_ge w i h, coeffOf_false]

theorem ofWord_init : ofWord Config.init = ∑ i ∈ Finset.range 32, X ^ i := by
  refine Finset.sum_congr rfl fun i hi => ?_
  have bit : Config.init.getLsbD i = true := by
    rw [show Config.init = BitVec.allOnes 32 from rfl, BitVec.getLsbD_allOnes, decide_eq_true (Finset.mem_range.mp hi)]
  rw [bit, coeffOf, if_pos rfl, C_1, one_mul]

/-! ### The generator -/

/-- NPOLY is the generator without its highest power (R80). -/
theorem generator_eq : generator = X ^ 32 + ofWord Config.npoly := by
  have bits : (List.range 32).filter Config.npoly.getLsbD = [0, 1, 2, 4, 5, 7, 8, 10, 11, 12, 16, 22, 23, 26] := by
    decide +kernel
  have word : ofWord Config.npoly = ((List.range 32).filter Config.npoly.getLsbD).toFinset.sum fun i => X ^ i := by
    rw [List.toFinset_filter, List.toFinset_range, Finset.sum_filter]
    refine Finset.sum_congr rfl fun i _ => ?_
    cases Config.npoly.getLsbD i <;> simp [coeffOf]
  rw [word, bits, List.sum_toFinset _ (by decide), generator]
  simp only [List.map_cons, List.map_nil, List.sum_cons, List.sum_nil]
  ring

theorem generator_monic : generator.Monic := by
  rw [generator_eq]
  exact monic_X_pow_add (degree_ofWord_lt _)

theorem degree_generator : generator.degree = 32 := by
  have power : ((X : (ZMod 2)[X]) ^ 32).degree = 32 := degree_X_pow 32
  rw [generator_eq, degree_add_eq_left_of_degree_lt (by rw [power]; exact degree_ofWord_lt _), power]

/-! ### The normal-form register as a polynomial -/

theorem coeff_X_mul_ofWord (w : Word) (i : Nat) :
    (X * ofWord w).coeff i = coeffOf (decide (0 < i) && w.getLsbD (i - 1)) := by
  cases i with
  | zero => simp
  | succ i => simp [coeff_X_mul, coeff_ofWord]

/-- A bit step multiplies by x, and takes the generator off where x^31 became x^32 (R84, R93). -/
theorem ofWord_stepBitN (c : Word) : ofWord (stepBitN c) = X * ofWord c + C (coeffOf (c.getLsbD 31)) * generator := by
  ext i
  rw [coeff_add, coeff_C_mul, coeff_X_mul_ofWord, coeff_ofWord, generator_eq, coeff_add, coeff_X_pow, coeff_ofWord]
  obtain inside | rfl | beyond := Nat.lt_trichotomy i 32
  · rw [stepBitN_getLsbD c i inside, coeffOf_xor, coeffOf_and _ (Config.npoly.getLsbD i), if_neg inside.ne, zero_add]
  · rw [BitVec.getLsbD_of_ge _ 32 le_rfl, BitVec.getLsbD_of_ge _ 32 le_rfl]
    simp [CharTwo.add_self_eq_zero]
  · rw [BitVec.getLsbD_of_ge _ i beyond.le, BitVec.getLsbD_of_ge _ i beyond.le, BitVec.getLsbD_of_ge _ (i - 1) (by omega)]
    simp [beyond.ne']

/-! ### Reduced by the generator -/

/-- A polynomial up to multiples of the generator. -/
noncomputable def reduced : (ZMod 2)[X] →+* AdjoinRoot generator := AdjoinRoot.mk generator

theorem reduced_generator : reduced generator = 0 := AdjoinRoot.mk_self

theorem reduced_ofWord_stepBitN (c : Word) : reduced (ofWord (stepBitN c)) = reduced X * reduced (ofWord c) := by
  rw [ofWord_stepBitN, map_add, map_mul, map_mul, reduced_generator, mul_zero, add_zero]

theorem reduced_ofWord_stepBitN_iterate (n : Nat) (c : Word) :
    reduced (ofWord (stepBitN^[n] c)) = reduced X ^ n * reduced (ofWord c) := by
  induction n generalizing c with
  | zero => rw [Function.iterate_zero_apply, pow_zero, one_mul]
  | succ n ih => rw [Function.iterate_succ_apply, ih, reduced_ofWord_stepBitN, pow_succ, mul_assoc]

/-! ### The message -/

theorem ofBits_concat (bits : List Bool) (b : Bool) : ofBits (bits ++ [b]) = X * ofBits bits + C (coeffOf b) := by
  rw [ofBits, List.foldl_append]
  rfl

theorem ofBits_append (bits tail : List Bool) : ofBits (bits ++ tail) = X ^ tail.length * ofBits bits + ofBits tail := by
  induction tail using List.reverseRecOn with
  | nil => simp [ofBits]
  | append_singleton tail b ih =>
    rw [← List.append_assoc, ofBits_concat, ih, ofBits_concat, List.length_append, List.length_singleton]
    ring

/-- The last bit is the constant coefficient, the first the highest power's (R93). -/
theorem coeff_ofBits (bits : List Bool) (i : Nat) : (ofBits bits).coeff i = coeffOf (bits.reverse[i]?.getD false) := by
  induction bits using List.reverseRecOn generalizing i with
  | nil => simp [ofBits]
  | append_singleton bits b ih =>
    rw [ofBits_concat, List.reverse_append, coeff_add]
    cases i with
    | zero => simp
    | succ i => simp [coeff_X_mul, ih]

/-- The bits of one byte, bit 0 first (R82). -/
def byteBits (b : Byte) : List Bool := (List.range 8).map fun i => b.getLsbD i

theorem byteBits_reverse_getD (b : Byte) (i : Nat) :
    (byteBits b).reverse[i]?.getD false = (decide (i < 8) && b.getLsbD (7 - i)) := by
  rw [byteBits, ← List.map_reverse, List.getElem?_map]
  by_cases h : i < 8
  · simp [h]
  · rw [List.getElem?_eq_none (by simpa using h)]
    simp [h]

theorem messageBits_cons (b : Byte) (d : List Byte) : messageBits (b :: d) = byteBits b ++ messageBits d := rfl

theorem messageBits_length (d : List Byte) : (messageBits d).length = 8 * d.length := by
  induction d with
  | nil => rfl
  | cons b d ih =>
    rw [messageBits_cons, List.length_append, ih, byteBits, List.length_map, List.length_range, List.length_cons]
    ring

/-- The byte at the top of the register is its bits above x^24. -/
theorem ofWord_topByte (b : Byte) : ofWord (zext32 (reflect b) <<< 24) = X ^ 24 * ofBits (byteBits b) := by
  ext i
  rw [coeff_ofWord, coeff_X_pow_mul']
  split
  · next top =>
    rw [coeff_ofBits, byteBits_reverse_getD]
    by_cases inside : i < 32
    · rw [topByte_getLsbD b inside]
      simp [top, show i - 24 < 8 by omega, show 7 - (i - 24) = 31 - i by omega]
    · rw [BitVec.getLsbD_of_ge _ i (by omega)]
      simp [show ¬ i - 24 < 8 by omega]
  · next low =>
    rw [topByte_getLsbD b (by omega)]
    simp [low]

/-- A byte moves the register up by eight powers, and enters at x^32 (R86, R93). -/
theorem reduced_ofWord_updN (c : Word) (b : Byte) :
    reduced (ofWord (updN c b)) = reduced X ^ 8 * reduced (ofWord c) + reduced X ^ 32 * reduced (ofBits (byteBits b)) := by
  rw [updN, reduced_ofWord_stepBitN_iterate, ofWord_xor, ofWord_topByte, map_add, map_mul, map_pow]
  ring

theorem reduced_ofWord_runCrcN (c : Word) (d : List Byte) :
    reduced (ofWord (runCrcN c d))
      = reduced X ^ (8 * d.length) * reduced (ofWord c) + reduced X ^ 32 * reduced (ofBits (messageBits d)) := by
  induction d generalizing c with
  | nil => simp [runCrcN, messageBits, ofBits]
  | cons b d ih =>
    rw [runCrcN, ih, reduced_ofWord_updN, messageBits_cons, ofBits_append, messageBits_length, map_add, map_mul, map_pow,
      List.length_cons]
    ring

/-- The register is short of the generator's degree, so it is the remainder of whatever it is reduced from. -/
theorem modByMonic_generator_eq {p : (ZMod 2)[X]} {w : Word} (h : reduced (ofWord w) = reduced p) :
    p %ₘ generator = ofWord w := by
  have divides : generator ∣ p - ofWord w := AdjoinRoot.mk_eq_mk.mp h.symm
  rw [modByMonic_eq_of_dvd_sub generator_monic divides, modByMonic_eq_self_iff generator_monic, degree_generator]
  exact degree_ofWord_lt w

theorem reflect_crc32_xorOut (d : List Byte) : reflect (crc32 d ^^^ 0xFFFFFFFF) = runCrcN Config.init d := by
  have register : crc32 d ^^^ 0xFFFFFFFF = runCrc Config.init d := finalize_finalize (runCrc Config.init d)
  obtain ⟨-, mirrored⟩ := normalFormEqualsReflectedForm d
  rw [register, mirrored, reflect_reflect]

/-- Settles O7: the normal-form register after d is the dividend reduced. -/
theorem crcIsPolynomialRemainder : Obligations.CrcIsPolynomialRemainder := by
  intro d
  rw [reflect_crc32_xorOut]
  refine modByMonic_generator_eq ?_
  rw [reduced_ofWord_runCrcN, ← ofWord_init, map_add, map_mul, map_mul, map_pow, map_pow, add_comm]

end Sys2Proof.Poly
end
